-- ==== Sys2Proof/Word.lean ====
section
/-! DEFINITION. The words of the NRC and the three small enumerations its command options name. -/

namespace Sys2Proof

/-- One coefficient word of a polynomial slot: 16 bits, unsigned (R11, R20). -/
abbrev Word := BitVec 16

/-- One byte of the byte buffer BUF (R32). -/
abbrev Byte := BitVec 8

/-- One 32-bit bus word, register value or command word (R60, R90). -/
abbrev Bus := BitVec 32

/-- A byte offset from NRC_BASE in the block's address space of 2^18 bytes (R60). -/
abbrev Offset := BitVec 18

/-- A slot field of a command word: 4 bits, of which only 0 to 7 name a slot (R91). -/
abbrev SlotIx := BitVec 4

/-- The RING option of the inverse commands, command bit 20 (R92, R124). -/
inductive RingSel where
  /-- RING = 0: invert in S_m, modulo Φ_N. -/
  | sPhi
  /-- RING = 1: invert in R_m, modulo x^N − 1. -/
  | rXn
deriving DecidableEq, Repr

/-- The CONV option of UNPACKQ, command bit 20 (R92, R172). -/
inductive LastCoeff where
  /-- CONV = 0: the last coefficient is recomputed from the zero sum. -/
  | sumZero
  /-- CONV = 1: the last coefficient is 0. -/
  | zero
deriving DecidableEq, Repr

/-- The module family of a build (R3). -/
inductive Family where
  /-- Fixed-weight message family, PARAM_CFG bit 0 = 0. -/
  | fw
  /-- Biased-iid family, PARAM_CFG bit 0 = 1. -/
  | bi
deriving DecidableEq, Repr

end Sys2Proof
end

