-- ==== Sys2Proof/Config.lean ====
section
/-! DEFINITION. What an implementation fixes: the build parameters of R7 (a value, carried by the state, so that
every claim is made for every build), the build that `State.reset` uses, and the free values that stand for UNSPEC. -/

namespace Sys2Proof

/-- The build parameters of R7, fixed while the NRC is powered (R313). NSLOT is 8 in every build. -/
structure Params where
  /-- N, the number of coefficients of a polynomial. -/
  n : Nat
  /-- LOGQ, so that Q = 2^LOGQ. -/
  logq : Nat
  /-- WEIGHT, the number of nonzero coefficients of a fixed-weight polynomial. -/
  weight : Nat
  /-- FAMILY. -/
  family : Family
  /-- IID_BYTES, the buffer length of one uniform-trit sample. -/
  iidBytes : Nat
  /-- FT_BYTES, the buffer length of one fixed-weight sample. -/
  ftBytes : Nat
  /-- BUF_BYTES, the size of BUF. -/
  bufBytes : Nat
deriving DecidableEq, Repr

namespace Config

/-- The build that `State.reset` stands for: the toy set T5 of 95_test_vectors.md with the default BUF_BYTES.
DESIGN CHOICE (log entry 1), unsafe for a claim about `State.reset` alone: R7 leaves N, LOGQ, WEIGHT and FAMILY open.
Nothing else in the model names this value. -/
def defaultBuild : Params :=
  { n := 5, logq := 7, weight := 2, family := .fw, iidBytes := 8, ftBytes := 16, bufBytes := 16384 }

/-- The free value of the `i`-th UNSPEC coefficient word (R13: a draw, a free input under no law; log entry 2). Safe. -/
opaque freeWord : Nat → Word

/-- The free value of the `i`-th UNSPEC byte of BUF (R13; log entry 2). Safe. -/
opaque freeByte : Nat → Byte

end Config

end Sys2Proof
end

