-- ==== Sys2Proof/Machine/Sizes.lean ====
section
/-! DEFINITION. The derived sizes of R9, and the large modulus Q of R7. -/

namespace Sys2Proof

/-- Q = 2^LOGQ (R7). -/
def Params.q (p : Params) : Nat := 2 ^ p.logq

/-- The least number of bytes that hold `bits` bits: ceil(bits / 8). -/
def bytesFor (bits : Nat) : Nat := (bits + 7) / 8

/-- PACKQ_BYTES = ceil(LOGQ·(N − 1)/8) (R9). -/
def Params.packqBytes (p : Params) : Nat := bytesFor (p.logq * (p.n - 1))

/-- PAD_BITS = 8·PACKQ_BYTES − LOGQ·(N − 1) (R9). -/
def Params.padBits (p : Params) : Nat := 8 * p.packqBytes - p.logq * (p.n - 1)

/-- PACK3_BYTES = ceil((N − 1)/5) (R9). -/
def Params.pack3Bytes (p : Params) : Nat := (p.n - 1 + 4) / 5

/-- PK_BYTES (R9). -/
def Params.pkBytes (p : Params) : Nat := p.packqBytes

/-- CT_BYTES (R9). -/
def Params.ctBytes (p : Params) : Nat := p.packqBytes

/-- SK_BYTES = 2·PACK3_BYTES + PACKQ_BYTES (R9). -/
def Params.skBytes (p : Params) : Nat := 2 * p.pack3Bytes + p.packqBytes

/-- RM_BYTES = 2·PACK3_BYTES (R9). -/
def Params.rmBytes (p : Params) : Nat := 2 * p.pack3Bytes

/-- FG_BYTES (R9): two sampler buffers, by family. -/
def Params.fgBytes (p : Params) : Nat :=
  match p.family with
  | .fw => p.iidBytes + p.ftBytes
  | .bi => 2 * p.iidBytes

/-- NEWTON_STEPS = ceil(log2(LOGQ)) (R9): how many powers 2^s lie below LOGQ. -/
def Params.newtonSteps (p : Params) : Nat := (List.range p.logq).countP fun s => 2 ^ s < p.logq

end Sys2Proof
end

