-- ==== Sys2Proof/Syntax.lean ====
section
/-! DEFINITION. The commands of the NRC: one constructor per row of the opcode map R93. -/

namespace Sys2Proof

/-- A command of R93. `d`, `a`, `b` are the fields D, A and B of R90 that the row uses; the option bit MODE[0] is
carried by the rows that have one (R92). -/
inductive Instr where
  /-- `MULQ`, R120. `phi` is PHI. -/
  | mulq (d a b : SlotIx) (phi : Bool)
  /-- `MUL3`, R122. -/
  | mul3 (d a b : SlotIx)
  /-- `INV2`, R125. -/
  | inv2 (d a : SlotIx) (ring : RingSel)
  /-- `INVQ`, R126. -/
  | invq (d a : SlotIx) (ring : RingSel)
  /-- `INV3`, R127. -/
  | inv3 (d a : SlotIx) (ring : RingSel)
  /-- `Z3TOZQ`, R151. -/
  | z3tozq (d a : SlotIx)
  /-- `ZQTOZ3`, R152. -/
  | zqtoz3 (d a : SlotIx)
  /-- `ZQTOS`, R153. -/
  | zqtos (d a : SlotIx)
  /-- `RQTOS3`, R154. -/
  | rqtos3 (d a : SlotIx)
  /-- `LIFT`, R156. -/
  | lift (d a : SlotIx)
  /-- `PACKQ`, R171. -/
  | packq (a : SlotIx)
  /-- `UNPACKQ`, R172. `last` is CONV. -/
  | unpackq (d : SlotIx) (last : LastCoeff)
  /-- `PACK3`, R175. -/
  | pack3 (a : SlotIx)
  /-- `UNPACK3`, R176. -/
  | unpack3 (d : SlotIx)
  /-- `SAMPIID`, R191. -/
  | sampiid (d : SlotIx)
  /-- `SAMPFW`, R195. -/
  | sampfw (d : SlotIx)
  /-- `SAMPBI`, R198. -/
  | sampbi (d : SlotIx)
  /-- `KEYPAIR`, R225. -/
  | keypair
  /-- `ENC`, R227. -/
  | enc (a b : SlotIx)
  /-- `DEC`, R230. -/
  | dec
deriving DecidableEq, Repr

end Sys2Proof
end

