-- ==== Sys2Proof/WellFormed.lean ====
section
/-! DEFINITION. Which command has valid slot fields (R91) and which parameters are a build of this spec (R7, R8). -/

namespace Sys2Proof

/-- A slot field names one of the NSLOT = 8 slots (R91). -/
def SlotIx.valid (x : SlotIx) : Bool := decide (x.toNat < 8)

/-- Every slot field the command uses names a slot; otherwise the submission is BAD_SLOT (R91, R263 check 3). -/
def Instr.wf : Instr → Bool
  | .mulq d a b _ => SlotIx.valid d && SlotIx.valid a && SlotIx.valid b
  | .mul3 d a b => SlotIx.valid d && SlotIx.valid a && SlotIx.valid b
  | .inv2 d a _ => SlotIx.valid d && SlotIx.valid a
  | .invq d a _ => SlotIx.valid d && SlotIx.valid a
  | .inv3 d a _ => SlotIx.valid d && SlotIx.valid a
  | .z3tozq d a => SlotIx.valid d && SlotIx.valid a
  | .zqtoz3 d a => SlotIx.valid d && SlotIx.valid a
  | .zqtos d a => SlotIx.valid d && SlotIx.valid a
  | .rqtos3 d a => SlotIx.valid d && SlotIx.valid a
  | .lift d a => SlotIx.valid d && SlotIx.valid a
  | .packq a => SlotIx.valid a
  | .unpackq d _ => SlotIx.valid d
  | .pack3 a => SlotIx.valid a
  | .unpack3 d => SlotIx.valid d
  | .sampiid d => SlotIx.valid d
  | .sampfw d => SlotIx.valid d
  | .sampbi d => SlotIx.valid d
  | .keypair => true
  | .enc a b => SlotIx.valid a && SlotIx.valid b
  | .dec => true

/-- The constraints of R7 and R8 on a build. That IID_BYTES and FT_BYTES fit their 32-bit registers is DEDUCED from
R26 and R27 (log entry 1). -/
def Params.wf (p : Params) : Bool :=
  decide (3 ≤ p.n) && decide (p.n ≤ 2048)
    && decide (2 ≤ p.logq) && decide (p.logq ≤ 16)
    && decide (p.weight % 2 = 0) && decide (p.weight ≤ p.n - 1)
    && decide (p.n - 1 ≤ p.iidBytes) && decide (p.iidBytes < 2 ^ 32)
    && decide (p.ftBytes % 2 = 0) && decide (2 * (p.n - 2) ≤ p.ftBytes) && decide (p.ftBytes < 2 ^ 32)
    && decide (1 ≤ p.bufBytes) && decide (p.bufBytes ≤ 65536)
    && (match p.family with | .fw => true | .bi => decide (p.n % 3 ≠ 0))

end Sys2Proof
end

