-- ==== Sys2Proof/Decode.lean ====
section
/-! DEFINITION. The command word (R90 to R95): its fields, the decoder, total on every 32-bit word and rejecting by
name, and the encoder written from the same table R93. -/

namespace Sys2Proof

/-- Why the decoder gives no command: the first two checks of R263, in the priority of R264. -/
inductive DecodeError where
  /-- OP has no row in R93 (R95). -/
  | illegalOpcode
  /-- RSV, MODE or a slot field that the row does not use is not 0 (R91, R92). -/
  | reservedField
deriving DecidableEq, Repr

/-- Field OP, bits 7:0 (R90). -/
def fieldOp (w : Bus) : BitVec 8 := w.extractLsb' 0 8
/-- Field D, bits 11:8 (R90). -/
def fieldD (w : Bus) : SlotIx := w.extractLsb' 8 4
/-- Field A, bits 15:12 (R90). -/
def fieldA (w : Bus) : SlotIx := w.extractLsb' 12 4
/-- Field B, bits 19:16 (R90). -/
def fieldB (w : Bus) : SlotIx := w.extractLsb' 16 4
/-- Field MODE, bits 23:20 (R90). -/
def fieldMode (w : Bus) : BitVec 4 := w.extractLsb' 20 4
/-- Field RSV, bits 31:24 (R90). -/
def fieldRsv (w : Bus) : BitVec 8 := w.extractLsb' 24 8

/-- MODE[0], command bit 20 (R92). -/
def modeBit (w : Bus) : Bool := w.getLsbD 20

/-- The RING selector that MODE[0] stands for (R92). -/
def ringOfBit : Bool → RingSel
  | false => .sPhi
  | true => .rXn

/-- The CONV selector that MODE[0] stands for (R92). -/
def lastOfBit : Bool → LastCoeff
  | false => .sumZero
  | true => .zero

/-- No RESERVED_FIELD check fires for a row that uses the fields named true (R263 check 2). -/
def fieldsClear (w : Bus) (useD useA useB useMode : Bool) : Bool :=
  decide (fieldRsv w = 0) && decide ((fieldMode w).extractLsb' 1 3 = 0)
    && (useMode || !modeBit w)
    && (useD || decide (fieldD w = 0)) && (useA || decide (fieldA w = 0)) && (useB || decide (fieldB w = 0))

/-- The command of a row whose "uses" columns are `useD useA useB` and whose MODE[0] column is `useMode`, or
RESERVED_FIELD. -/
def row (w : Bus) (useD useA useB useMode : Bool) (i : Instr) : Except DecodeError Instr :=
  if fieldsClear w useD useA useB useMode then .ok i else .error .reservedField

/-- The decoder: the row is selected by OP alone, then RSV, MODE and the unused fields are checked (R93). The slot
fields of the answer may still be 8 to 15; that is BAD_SLOT, `Instr.wf`. -/
def decode (w : Bus) : Except DecodeError Instr :=
  match (fieldOp w).toNat with
  | 0x01 => row w true true true true (.mulq (fieldD w) (fieldA w) (fieldB w) (modeBit w))
  | 0x02 => row w true true true false (.mul3 (fieldD w) (fieldA w) (fieldB w))
  | 0x03 => row w true true false true (.inv2 (fieldD w) (fieldA w) (ringOfBit (modeBit w)))
  | 0x04 => row w true true false true (.invq (fieldD w) (fieldA w) (ringOfBit (modeBit w)))
  | 0x05 => row w true true false true (.inv3 (fieldD w) (fieldA w) (ringOfBit (modeBit w)))
  | 0x08 => row w true true false false (.z3tozq (fieldD w) (fieldA w))
  | 0x09 => row w true true false false (.zqtoz3 (fieldD w) (fieldA w))
  | 0x0A => row w true true false false (.zqtos (fieldD w) (fieldA w))
  | 0x0B => row w true true false false (.rqtos3 (fieldD w) (fieldA w))
  | 0x0C => row w true true false false (.lift (fieldD w) (fieldA w))
  | 0x10 => row w false true false false (.packq (fieldA w))
  | 0x11 => row w true false false true (.unpackq (fieldD w) (lastOfBit (modeBit w)))
  | 0x12 => row w false true false false (.pack3 (fieldA w))
  | 0x13 => row w true false false false (.unpack3 (fieldD w))
  | 0x20 => row w true false false false (.sampiid (fieldD w))
  | 0x21 => row w true false false false (.sampfw (fieldD w))
  | 0x22 => row w true false false false (.sampbi (fieldD w))
  | 0x30 => row w false false false false .keypair
  | 0x31 => row w false true true false (.enc (fieldA w) (fieldB w))
  | 0x32 => row w false false false false .dec
  | _ => .error .illegalOpcode

/-- The command word with RSV = 0, MODE[3:1] = 0 and the given fields, most significant field first (R90). -/
def assemble (mode0 : Bool) (b a d : SlotIx) (op : BitVec 8) : Bus :=
  (0#11 ++ BitVec.ofBool mode0 ++ b ++ a ++ d ++ op : BitVec (11 + 1 + 4 + 4 + 4 + 8))

/-- MODE[0] of a RING selector (R92). -/
def bitOfRing : RingSel → Bool
  | .sPhi => false
  | .rXn => true

/-- MODE[0] of a CONV selector (R92). -/
def bitOfLast : LastCoeff → Bool
  | .sumZero => false
  | .zero => true

/-- The word of a command (R90 to R93): fields the row does not use are 0. -/
def encode : Instr → Bus
  | .mulq d a b phi => assemble phi b a d 0x01
  | .mul3 d a b => assemble false b a d 0x02
  | .inv2 d a ring => assemble (bitOfRing ring) 0 a d 0x03
  | .invq d a ring => assemble (bitOfRing ring) 0 a d 0x04
  | .inv3 d a ring => assemble (bitOfRing ring) 0 a d 0x05
  | .z3tozq d a => assemble false 0 a d 0x08
  | .zqtoz3 d a => assemble false 0 a d 0x09
  | .zqtos d a => assemble false 0 a d 0x0A
  | .rqtos3 d a => assemble false 0 a d 0x0B
  | .lift d a => assemble false 0 a d 0x0C
  | .packq a => assemble false 0 a 0 0x10
  | .unpackq d last => assemble (bitOfLast last) 0 0 d 0x11
  | .pack3 a => assemble false 0 a 0 0x12
  | .unpack3 d => assemble false 0 0 d 0x13
  | .sampiid d => assemble false 0 0 d 0x20
  | .sampfw d => assemble false 0 0 d 0x21
  | .sampbi d => assemble false 0 0 d 0x22
  | .keypair => assemble false 0 0 0 0x30
  | .enc a b => assemble false b a 0 0x31
  | .dec => assemble false 0 0 0 0x32

/-- The command this decoder reads from an instruction whose `nbits` low bits are `w` (bits above are 0), numbered as
spec/opcode_table.json numbers them: a command is one 32-bit word, delivered whole by one bus write. -/
def decodeTableWord (nbits w : Nat) : Option Instr :=
  match decode (BitVec.ofNat 32 (w % 2 ^ nbits)) with
  | .ok i => some i
  | .error _ => none

end Sys2Proof
end

