-- ==== Sys2Proof/Machine/State.lean ====
section
/-! DEFINITION. The state of the NRC and its surroundings as plain data: the architectural state of 10_state.md, the
latched command (R36), the host's transactions still to come (R60), and the model's own counter of free values; the
reasons a step can stop; and the state right after power-on reset (R42). -/

namespace Sys2Proof.Machine

/-- A memory: (index, value) pairs with strictly rising indices. An index that is not listed holds NO value: "After
power-on, a slot coefficient or BUF byte holds no value until the host writes it or a command writes it" (R43). -/
abbrev Memory (α : Type) := List (Nat × α)

/-- The canonical form of a memory: indices strictly rising, so that equal memories are equal lists. No listed value
equals what an unlisted index reads as, since an unlisted index reads as no value. -/
abbrev Memory.wf {α : Type} (m : Memory α) : Prop := m.Pairwise fun x y => x.1 < y.1

/-- The error codes of R260. Codes 6 to 15 are never produced. -/
inductive ErrCode where
  /-- 0, no error. -/
  | ok
  /-- 1, raised at submission: OP has no row in R93. -/
  | illegalOpcode
  /-- 2, raised at submission: RSV, MODE or an unused slot field is not 0. -/
  | reservedField
  /-- 3, raised at submission: a used slot field is 8 or more. -/
  | badSlot
  /-- 4, raised at submission: a BUF region does not fit in BUF. -/
  | badRange
  /-- 5, raised at completion: too few accepted draws. -/
  | sampleExhausted
deriving DecidableEq, Repr

/-- Why the machine stops. -/
inductive Fault where
  /-- R43: a host read, or a command's input set, reaches a slot coefficient that nothing has written since power-on.
  Raised by the slot window read and by the acceptance of a command. Safe. -/
  | unwrittenCoeff
  /-- R43: the same for a byte of BUF. Raised by the BUF window read and by the acceptance of a command. Safe. -/
  | unwrittenByte
  /-- R311: a host access to the slot or BUF window while BUSY = 1; "a model treats such an access as a fault".
  Raised by the window read and the window write. Safe. -/
  | windowWhileBusy
  /-- The completion of a command was asked for with no command in flight. Only `exec` raises it, and `step` never calls
  `exec` in such a state (R41: completion is enabled only while BUSY = 1). Safe. -/
  | engineIdle
  /-- A completion was asked to write a slot that does not exist (R20: there are eight). No accepted command names one
  (R263 check 3). Safe. -/
  | noSuchSlot
  /-- A completion was asked to write BUF outside BUF[0..BUF_BYTES−1] (R32). No accepted command does (R263 check 4).
  Safe. -/
  | outsideBuf
  /-- The latched CUR_CMD is no command. No accepted word is (R263 checks 1 and 2). Raised by `step`. Safe. -/
  | latchUndecodable
  /-- DEC in a BI build with N mod 3 = 0, which "is outside this spec" (R8): LIFT(m) has no defined value there. Raised
  by `execDec`. Safe. -/
  | buildOutsideSpec
deriving DecidableEq, Repr

/-- Why the model has no step for an action. -/
inductive Refusal where
  /-- The instruction has no meaning in this model yet. No arm of `exec` answers with it. Safe. -/
  | notModelled (mnemonic : String)
  /-- R66: a host access whose offset bits [1:0] are not 0; "A model refuses one (it has no step)". Safe. -/
  | misalignedAccess
  /-- R66: a host access narrower than 32 bits; "A model refuses one (it has no step)". Safe. -/
  | narrowAccess
deriving DecidableEq, Repr

/-- The size of a host access. Only `word` has a meaning (R60, R66). -/
inductive AccessSize where
  /-- 8 bits. -/
  | byte
  /-- 16 bits. -/
  | half
  /-- 32 bits. -/
  | word
deriving DecidableEq, Repr

/-- One thing that may happen next: a host transaction (R60), a reset input (R300), or the engine's turn (R16, R41). -/
inductive Event where
  /-- `Read(off)`. -/
  | read (size : AccessSize) (off : Offset)
  /-- `Write(off, w)`. -/
  | write (size : AccessSize) (off : Offset) (data : Bus)
  /-- The platform's hardware reset input (R300). -/
  | hardwareReset
  /-- The platform's power-on reset (R300), also the state after power was removed and returned (R287). -/
  | powerOnReset
  /-- The engine is scheduled: it completes the command in flight if there is one (R41). -/
  | engine
deriving DecidableEq, Repr

/-- The latched command state of R36, held from acceptance to completion or abort. -/
structure Flight where
  /-- CUR_CMD, the accepted word. -/
  cmd : Bus
  /-- CUR_BOFF0. -/
  boff0 : Bus
  /-- CUR_BOFF1. -/
  boff1 : Bus
  /-- CUR_BOFF2. -/
  boff2 : Bus
  /-- Snapshot of P[A], when the command reads P[A] (else empty). -/
  inA : List Word
  /-- Snapshot of P[B], when the command reads P[B] (else empty). -/
  inB : List Word
  /-- Snapshot of the BUF region at CUR_BOFF0, when the command reads one there (else empty). -/
  in0 : List Byte
  /-- Snapshot of the BUF region at CUR_BOFF1, when the command reads one there (else empty). -/
  in1 : List Byte
deriving DecidableEq, Repr

/-- The state of the machine. -/
structure State where
  /-- The build parameters, which PARAM_N to PARAM_BUF show (R22 to R28). No step changes them (R313). -/
  params : Params
  /-- The polynomial slots P[0] to P[7]: slot s holds P[s][k] at index k (R20). -/
  slots : Vector (Memory Word) 8
  /-- The byte buffer BUF (R32). -/
  buf : List Host.Cell
  /-- STATUS.DONE (R30). -/
  done : Bool
  /-- STATUS.HAZ (R30). -/
  haz : Bool
  /-- STATUS.ERR (R30, R260). -/
  err : ErrCode
  /-- CTRL.IE (R31). -/
  ie : Bool
  /-- RESULT.FAIL (R33). -/
  fail : Bool
  /-- BOFF0 (R34). -/
  boff0 : Bus
  /-- BOFF1 (R34). -/
  boff1 : Bus
  /-- BOFF2 (R34). -/
  boff2 : Bus
  /-- ERRCMD (R35). -/
  errcmd : Bus
  /-- The command in flight with its latched inputs (R36); STATUS.BUSY is 1 exactly when there is one (R30, R41). -/
  flight : Option Flight
  /-- The model's own counter of free values drawn so far (log entry 2). -/
  draws : Nat
  /-- The model's own list of what the host, the platform and the scheduler do next, oldest first (log entry 3). -/
  inputs : List Event
  /-- The word the last host Read returned (R60). -/
  readData : Option Bus
deriving DecidableEq, Repr

/-- The machine of build `p` after power-on reset (R42, R43), with `inputs` to come. -/
def State.powerOn (p : Params) (inputs : List Event) : State :=
  { params := p
    slots := Vector.replicate 8 []
    buf := []
    done := false
    haz := false
    err := .ok
    ie := false
    fail := false
    boff0 := 0
    boff1 := 0
    boff2 := 0
    errcmd := 0
    flight := none
    draws := 0
    inputs := inputs
    readData := none }

/-- The machine right after power-on reset, of the build of `Config.defaultBuild` and with no host transaction to come. -/
def State.reset : State := State.powerOn Config.defaultBuild []

end Sys2Proof.Machine
end

