-- ==== Sys2Proof/Machine/Ops.lean ====
section
/-! DEFINITION. The named operations over memories, slots, BUF and the command in flight that every meaning is
written with: reading and writing locations, drawing free values, rejecting a command (R262), completing one (R41),
and the abort of a reset (R303). The NRC takes no traps (R272); a rejection is its one form of an exception, and
the host's W1C write to STATUS its one form of a return (R273). -/

namespace Sys2Proof.Machine

/-- What a step answers. -/
abbrev Result := Host.Outcome State Fault Refusal

/-! ### Memories -/

/-- The value at an index, or none when it holds no value (R43). -/
def Memory.read {α : Type} : Memory α → Nat → Option α
  | [], _ => none
  | (i, v) :: rest, k => if k = i then some v else Memory.read rest k

/-- Store a value at an index, keeping the indices strictly rising. -/
def Memory.write {α : Type} : Memory α → Nat → α → Memory α
  | [], k, x => [(k, x)]
  | (i, v) :: rest, k, x =>
    if k < i then (k, x) :: (i, v) :: rest
    else if k = i then (k, x) :: rest
    else (i, v) :: Memory.write rest k x

/-- Store consecutive values from an index on. -/
def Memory.writeList {α : Type} (m : Memory α) (k : Nat) : List α → Memory α
  | [] => m
  | x :: rest => Memory.writeList (Memory.write m k x) (k + 1) rest

/-- The values at `k, …, k + n − 1`, or none when one of them holds no value. -/
def Memory.readList {α : Type} (m : Memory α) (k : Nat) : Nat → Option (List α)
  | 0 => some []
  | n + 1 =>
    match Memory.read m k, Memory.readList m (k + 1) n with
    | some x, some xs => some (x :: xs)
    | _, _ => none

/-! ### Slots and BUF -/

/-- The memory of slot d, or none when there is no such slot (R20). -/
def State.slot (s : State) (d : SlotIx) : Option (Memory Word) := s.slots[d.toNat]?

/-- P[d][k], or none when it holds no value (R20, R43). -/
def State.coeffAt (s : State) (d : SlotIx) (k : Nat) : Option Word :=
  match s.slot d with
  | some m => Memory.read m k
  | none => none

/-- P[d] whole: its N words, or none when one of them holds no value (R13). -/
def State.readSlot (s : State) (d : SlotIx) : Option (List Word) :=
  match s.slot d with
  | some m => Memory.readList m 0 s.params.n
  | none => none

/-- BUF[a], or none when it holds no value (R32, R43). -/
def State.byteAt (s : State) (a : Nat) : Option Byte := Memory.read s.buf a

/-- `MemRead(off, n)` of R13, or none when a byte holds no value. -/
def State.readBuf (s : State) (off n : Nat) : Option (List Byte) := Memory.readList s.buf off n

/-- Replace the memory of slot d; nothing where there is no such slot. -/
def State.setSlot (s : State) (d : SlotIx) (m : Memory Word) : State :=
  { s with slots := s.slots.setIfInBounds d.toNat m }

/-- Write one coefficient word P[d][k] (R63). -/
def State.writeCoeff (s : State) (d : SlotIx) (k : Nat) (w : Word) : State :=
  match s.slot d with
  | some m => s.setSlot d (Memory.write m k w)
  | none => s

/-- `P[d] <- v` of R13: words from coefficient 0 on. -/
def State.writeSlot (s : State) (d : SlotIx) (ws : List Word) : State :=
  match s.slot d with
  | some m => s.setSlot d (Memory.writeList m 0 ws)
  | none => s

/-- `MemWrite(off, n, v)` of R13. -/
def State.writeBuf (s : State) (off : Nat) (bs : List Byte) : State :=
  { s with buf := Memory.writeList s.buf off bs }

/-! ### Free values -/

/-- Give each UNSPEC word of a list the next free value, position by position (log entry 2). -/
def drawnWords (start : Nat) (ws : List (Option Word)) : List Word :=
  ws.mapIdx fun k w => w.getD (Config.freeWord (start + k))

/-- Give each UNSPEC byte of a list the next free value, position by position (log entry 2). -/
def drawnBytes (start : Nat) (bs : List (Option Byte)) : List Byte :=
  bs.mapIdx fun k b => b.getD (Config.freeByte (start + k))

/-- Advance the counter of free values. -/
def State.advance (s : State) (n : Nat) : State := { s with draws := s.draws + n }

/-- `P[d] <- v` with UNSPEC words drawn. -/
def State.writeSlotDrawn (s : State) (d : SlotIx) (ws : List (Option Word)) : State :=
  (s.writeSlot d (drawnWords s.draws ws)).advance ws.length

/-- `MemWrite(off, n, v)` with UNSPEC bytes drawn. -/
def State.writeBufDrawn (s : State) (off : Nat) (bs : List (Option Byte)) : State :=
  (s.writeBuf off (drawnBytes s.draws bs)).advance bs.length

/-! ### The life of a command -/

/-- STATUS.BUSY: a command is in flight (R30). -/
def State.busy (s : State) : Bool := s.flight.isSome

/-- Rejection of the word w with an error code (R262): DONE, ERR and ERRCMD, and nothing else. -/
def State.reject (s : State) (w : Bus) (e : ErrCode) : State :=
  { s with done := true, err := e, errcmd := w }

/-- Acceptance with the latched command f (R261). -/
def State.accept (s : State) (f : Flight) : State :=
  { s with flight := some f, done := false, err := .ok, fail := false }

/-- Steps 4 and 5 of completion (R41): ERR, BUSY and DONE. -/
def State.retire (s : State) (e : ErrCode) : State :=
  { s with flight := none, done := true, err := e }

/-- Completion is enabled only while BUSY = 1 (R41): the meaning continues with the latched command. -/
def whileInFlight (s : State) (k : Flight → Result) : Result :=
  match s.flight with
  | some f => k f
  | none => .fault .engineIdle

/-- Completion of a command that writes the words of P[d] (R41). -/
def completeSlot (s : State) (d : SlotIx) (ws : List Word) : Result :=
  if d.toNat < 8 then .next ((s.writeSlot d ws).retire .ok) else .fault .noSuchSlot

/-- Completion of a command that writes P[d], where some words may be UNSPEC, with an error code (R41, R265). -/
def completeSlotDrawn (s : State) (d : SlotIx) (ws : List (Option Word)) (e : ErrCode) : Result :=
  if d.toNat < 8 then .next ((s.writeSlotDrawn d ws).retire e) else .fault .noSuchSlot

/-- `MemWrite` of a completion: the region lies in BUF (R32). -/
def storeBytes (s : State) (off : Bus) (bs : List (Option Byte)) (k : State → Result) : Result :=
  if off.toNat + bs.length ≤ s.params.bufBytes then k (s.writeBufDrawn off.toNat bs) else .fault .outsideBuf

/-- The words of a polynomial that may be UNSPEC as a whole (R124, R150, R190(d)). -/
def wordsOrUnspec (n : Nat) (v : Option (List Word)) : List (Option Word) :=
  match v with
  | some ws => ws.map some
  | none => List.replicate n none

end Sys2Proof.Machine
end

