-- ==== Sys2Proof/Machine/Poly.lean ====
section
/-! DEFINITION. Polynomial values and the arithmetic of R11 to R13, R120 to R129: coefficients are unbounded integers,
and every reduction is written out. -/

namespace Sys2Proof.Machine

/-- A polynomial value: the list of its N integer coefficients, index k first to last (R12). -/
abbrev Poly := List Int

/-- Coefficient k of a polynomial value. -/
def coeff (a : Poly) (k : Nat) : Int := a.getD k 0

/-- The polynomial with the N coefficients `f 0, …, f (n−1)`. -/
def ofCoeffs (n : Nat) (f : Nat → Int) : Poly := (List.range n).map f

/-- Σ_{i = 0..n−1} f i. -/
def sumTo (n : Nat) (f : Nat → Int) : Int := ((List.range n).map f).sum

/-- The words of a slot read as integers in [0, 65535] (R11). -/
def values (n : Nat) (ws : List Word) : Poly := ofCoeffs n fun k => ((ws.getD k 0).toNat : Int)

/-- The word that holds a coefficient value: its 16-bit two's complement (R11, R14). -/
def wordOf (x : Int) : Word := BitVec.ofInt 16 x

/-- The words of a polynomial value. -/
def toWords (a : Poly) : List Word := a.map wordOf

/-- Every coefficient mod m, in [0, m) (R11, R12). -/
def reduceMod (n : Nat) (m : Int) (a : Poly) : Poly := ofCoeffs n fun k => coeff a k % m

/-- `conv(a, b)[k] = Σ_{i+j ≡ k (mod N)} a[i]·b[j]` over the integers (R13): for each i the one j below N is
(k − i) mod N. -/
def cyclicConv (n : Nat) (a b : Poly) : Poly :=
  ofCoeffs n fun k => sumTo n fun i => coeff a i * coeff b ((k + n - i) % n)

/-- `phi_m(c)[k] = (c[k] − c[N−1]) mod m` (R121). -/
def phi (n : Nat) (m : Int) (c : Poly) : Poly := ofCoeffs n fun k => (coeff c k - coeff c (n - 1)) % m

/-- The product in R_m, canonical. -/
def mulR (n : Nat) (m : Int) (a b : Poly) : Poly := reduceMod n m (cyclicConv n a b)

/-- The product in the ring of the selector: S_m for RING = 0, R_m for RING = 1 (R124), canonical. -/
def mulIn (n : Nat) (m : Int) (ring : RingSel) (a b : Poly) : Poly :=
  match ring with
  | .sPhi => phi n m (cyclicConv n a b)
  | .rXn => mulR n m a b

/-- The constant 1, canonical in either ring (N ≥ 2, m ≥ 2). -/
def onePoly (n : Nat) : Poly := ofCoeffs n fun k => if k = 0 then 1 else 0

/-! ### The multiplication commands -/

/-- MULQ with PHI = 0: the product in R_Q (R120). Operands are read mod Q. -/
def mulqFn (p : Params) (a b : Poly) : Poly :=
  mulR p.n p.q (reduceMod p.n p.q a) (reduceMod p.n p.q b)

/-- MULQ with PHI = 1: the product reduced into S_Q (R120, R121). -/
def mulqPhiFn (p : Params) (a b : Poly) : Poly := phi p.n p.q (mulqFn p a b)

/-- MUL3: the mod-Q product, mod 3, mod Φ_N (R122). -/
def mul3Fn (p : Params) (a b : Poly) : Poly := phi p.n 3 (reduceMod p.n 3 (mulqFn p a b))

/-! ### Inversion

R124 defines the result, not the method; R130 leaves the method free. For the primes 2 and 3 a candidate is found by
the extended Euclidean algorithm on the modulus polynomial and a; mod Q it is refined from the mod-2 inverse by
the Newton steps of R129. A candidate is answered only if it IS the inverse, by multiplication (`certify`). -/

/-- Drop the zero coefficients above the degree. -/
def trim (a : Poly) : Poly := (a.reverse.dropWhile fun x => decide (x = 0)).reverse

/-- `a − c·x^sh·b` mod m, trimmed. -/
def subShifted (m : Int) (a : Poly) (c : Int) (sh : Nat) (b : Poly) : Poly :=
  trim <| ofCoeffs (max a.length (b.length + sh)) fun k =>
    (coeff a k - if sh ≤ k then c * coeff b (k - sh) else 0) % m

/-- The extended Euclidean algorithm over the field of m elements, m = 2 or 3, where a nonzero c is its own inverse.
The pairs (r0, t0) and (r1, t1) keep r ≡ t·a modulo the modulus polynomial; each turn cancels the leading coefficient
of r0 by r1, or swaps the pairs. It ends when r1 = 0, with r0 a greatest common divisor. -/
def euclid (m : Int) : Nat → (r0 t0 r1 t1 : Poly) → Poly × Poly
  | 0, r0, t0, _, _ => (r0, t0)
  | fuel + 1, r0, t0, r1, t1 =>
    if r1.length = 0 then (r0, t0)
    else if r0.length < r1.length then euclid m fuel r1 t1 r0 t0
    else
      let sh := r0.length - r1.length
      let c := coeff r0 (r0.length - 1) * coeff r1 (r1.length - 1)
      euclid m fuel (subShifted m r0 c sh r1) (subShifted m t0 c sh t1) r1 t1

/-- The modulus polynomial of the ring: Φ_N (RING = 0) or x^N − 1 (RING = 1), mod m (R12, R124). -/
def modulusPoly (n : Nat) (m : Int) (ring : RingSel) : Poly :=
  match ring with
  | .sPhi => ofCoeffs n fun _ => 1
  | .rXn => ofCoeffs (n + 1) fun k => if k = 0 then (-1) % m else if k = n then 1 else 0

/-- Fold a polynomial of any length modulo x^N − 1 and bring it to the canonical form of the ring. -/
def canonical (n : Nat) (m : Int) (ring : RingSel) (a : Poly) : Poly :=
  let folded := ofCoeffs n fun k => sumTo (a.length / n + 1) fun i => coeff a (k + n * i)
  match ring with
  | .sPhi => phi n m folded
  | .rXn => reduceMod n m folded

/-- Answer `v` only if a·v ≡ 1 in the ring: then a is invertible and v, being canonical, is its inverse (R124). -/
def certify (n : Nat) (m : Int) (ring : RingSel) (a v : Poly) : Option Poly :=
  if mulIn n m ring a v = onePoly n then some v else none

/-- The inverse modulo the prime m = 2 or 3 in the ring, or none when a is not invertible (R124, R125, R127). -/
def invPrime (n : Nat) (m : Int) (ring : RingSel) (a : Poly) : Option Poly :=
  let am := reduceMod n m a
  let g := euclid m (4 * n + 8) (modulusPoly n m ring) [] (trim am) [1]
  certify n m ring am (canonical n m ring (g.2.map fun t => t * coeff g.1 0))

/-- `k` Newton steps v ← v·(2 − a·v) in R_m (R129). -/
def newton (n : Nat) (m : Int) (a : Poly) : Nat → Poly → Poly
  | 0, v => v
  | k + 1, v =>
    let av := mulR n m a v
    newton n m a k (mulR n m v (ofCoeffs n fun j => (if j = 0 then 2 else 0) - coeff av j))

/-- The inverse modulo Q in the ring, or none when a is not invertible (R126, R128, R129). -/
def invQ (p : Params) (ring : RingSel) (a : Poly) : Option Poly :=
  let aq := reduceMod p.n p.q a
  match invPrime p.n 2 ring a with
  | none => none
  | some v0 => certify p.n p.q ring aq (canonical p.n p.q ring (newton p.n p.q aq p.newtonSteps v0))

end Sys2Proof.Machine
end

