-- ==== Sys2Proof/Machine/RingArith.lean ====
section
/-! DEFINITION. The completions of MULQ, MUL3, INV2, INVQ and INV3 (40_ring_arith.md). The operands A and B of a
command were snapshotted at its acceptance (R36), so a completion reads them from the command in flight. -/

namespace Sys2Proof.Machine

/-- The snapshot of P[A] as integers. -/
def Flight.polyA (f : Flight) (n : Nat) : Poly := values n f.inA

/-- The snapshot of P[B] as integers. -/
def Flight.polyB (f : Flight) (n : Nat) : Poly := values n f.inB

/-- MULQ (R120): P[D] is the product in R_Q, or in S_Q with PHI = 1. -/
def execMulq (d _a _b : SlotIx) (withPhi : Bool) (s : State) : Result :=
  whileInFlight s fun f =>
    let product := if withPhi then mulqPhiFn s.params (f.polyA s.params.n) (f.polyB s.params.n)
      else mulqFn s.params (f.polyA s.params.n) (f.polyB s.params.n)
    completeSlot s d (toWords product)

/-- MUL3 (R122): P[D] is the mod-Q product reduced mod 3 and mod Φ_N. -/
def execMul3 (d _a _b : SlotIx) (s : State) : Result :=
  whileInFlight s fun f =>
    completeSlot s d (toWords (mul3Fn s.params (f.polyA s.params.n) (f.polyB s.params.n)))

/-- INV2 (R125): P[D] is the inverse mod 2, every word UNSPEC when there is none. -/
def execInv2 (d _a : SlotIx) (ring : RingSel) (s : State) : Result :=
  whileInFlight s fun f =>
    completeSlotDrawn s d
      (wordsOrUnspec s.params.n ((invPrime s.params.n 2 ring (f.polyA s.params.n)).map toWords)) .ok

/-- INVQ (R126): P[D] is the inverse mod Q, every word UNSPEC when there is none. -/
def execInvq (d _a : SlotIx) (ring : RingSel) (s : State) : Result :=
  whileInFlight s fun f =>
    completeSlotDrawn s d
      (wordsOrUnspec s.params.n ((invQ s.params ring (f.polyA s.params.n)).map toWords)) .ok

/-- INV3 (R127): P[D] is the inverse mod 3, every word UNSPEC when there is none. -/
def execInv3 (d _a : SlotIx) (ring : RingSel) (s : State) : Result :=
  whileInFlight s fun f =>
    completeSlotDrawn s d
      (wordsOrUnspec s.params.n ((invPrime s.params.n 3 ring (f.polyA s.params.n)).map toWords)) .ok

end Sys2Proof.Machine
end

