-- ==== Sys2Proof/Machine/Trits.lean ====
section
/-! DEFINITION. The domain conversions of 41_conversions.md and the wire formats of 42_packing.md as functions on
values. `none` stands for UNSPEC (R13). -/

namespace Sys2Proof.Machine

/-! ### Conversions -/

/-- Z3TOZQ of one coefficient; UNSPEC outside T3 (R150, R151). -/
def z3ToZq (p : Params) (x : Int) : Option Int :=
  if x = 0 then some 0 else if x = 1 then some 1 else if x = 2 then some (p.q - 1) else none

/-- ZQTOZ3 of one coefficient, read mod Q; UNSPEC outside TQ (R150, R152). -/
def zqToZ3 (p : Params) (x : Int) : Option Int :=
  let v := x % p.q
  if v = 0 then some 0 else if v = 1 then some 1 else if v = p.q - 1 then some 2 else none

/-- ZQTOS of one coefficient, read mod Q: the signed trit; UNSPEC outside TQ (R150, R153). -/
def zqToS (p : Params) (x : Int) : Option Int :=
  let v := x % p.q
  if v = 0 then some 0 else if v = 1 then some 1 else if v = p.q - 1 then some (-1) else none

/-- Apply a conversion to each of the N coefficients. -/
def convertEach (n : Nat) (f : Int → Option Int) (a : Poly) : List (Option Int) :=
  (List.range n).map fun k => f (coeff a k)

/-- Z3TOZQ of a polynomial known to be in T3 (R151): 0 ↦ 0, 1 ↦ 1, 2 ↦ Q − 1. -/
def z3ToZqPoly (p : Params) (a : Poly) : Poly := ofCoeffs p.n fun k => (z3ToZq p (coeff a k)).getD 0

/-- The centred representative in [−Q/2, Q/2) of a coefficient read mod Q (R154). -/
def centred (p : Params) (x : Int) : Int :=
  let v := x % p.q
  if v ≥ p.q / 2 then v - p.q else v

/-- RQTOS3: centre, reduce mod 3, reduce mod Φ_N (R154). -/
def rqToS3 (p : Params) (a : Poly) : Poly := phi p.n 3 (ofCoeffs p.n fun k => centred p (coeff a k) % 3)

/-- Every coefficient is in {0, 1, 2} (domain T3, R14). -/
def inT3 (n : Nat) (a : Poly) : Bool :=
  (List.range n).all fun k => decide (0 ≤ coeff a k) && decide (coeff a k ≤ 2)

/-- The product (x − 1)·a in R_Q: coefficient k is a[(k−1) mod N] − a[k] (R156, R222). -/
def timesXm1 (p : Params) (a : Poly) : Poly :=
  ofCoeffs p.n fun k => (coeff a ((k + p.n - 1) % p.n) - coeff a k) % p.q

/-- The B of R156 for the BI lift: B[N−1] = 0 and (x − 1)·B ≡ m (mod 3, Φ_N). Reducing mod Φ_N, that is
B[k−1] − B[k] − B[N−2] ≡ m[k] − m[N−1] for k = 0..N−2 with B[−1] = B[N−1] = 0. Summing it over k gives
N·B[N−2] ≡ −Σ (m[k] − m[N−1]), and 1/N ≡ N mod 3 as N mod 3 ≠ 0. -/
def quotXm1 (n : Nat) (m : Poly) : Poly :=
  let partialSum := fun k => sumTo (k + 1) fun j => coeff m j - coeff m (n - 1)
  let top := -(partialSum (n - 2) * n) % 3
  ofCoeffs n fun k => if k = n - 1 then 0 else (-((k + 1 : Nat) * top) - partialSum k) % 3

/-- LIFT (R156), UNSPEC as a whole when some coefficient is outside T3. In a BI build with N mod 3 = 0, which is
outside the spec (R8), it is UNSPEC too (log entry 9). -/
def liftFn (p : Params) (m : Poly) : Option Poly :=
  if inT3 p.n m then
    match p.family with
    | .fw => some (z3ToZqPoly p m)
    | .bi => if p.n % 3 = 0 then none else some (timesXm1 p (z3ToZqPoly p (quotXm1 p.n m)))
  else none

/-! ### Mod-Q wire bytes -/

/-- Stream position `pos` of the mod-Q wire format: coefficient ⌊pos / LOGQ⌋, most significant bit first; the padding
positions are 0 (R170). -/
def streamBit (p : Params) (c : Poly) (pos : Nat) : Nat :=
  if pos < p.logq * (p.n - 1) then
    (coeff c (pos / p.logq) % p.q).toNat / 2 ^ (p.logq - 1 - pos % p.logq) % 2
  else 0

/-- `packq(c)`: position `pos` is bit 7 − (pos mod 8) of byte ⌊pos / 8⌋ (R170). -/
def packqFn (p : Params) (c : Poly) : List Byte :=
  (List.range p.packqBytes).map fun b =>
    BitVec.ofNat 8 (((List.range 8).map fun t => streamBit p c (8 * b + t) * 2 ^ (7 - t)).sum)

/-- `bit(by, pos)` of R172. -/
def bitOf (bytes : List Byte) (pos : Nat) : Nat := (bytes.getD (pos / 8) 0).toNat / 2 ^ (7 - pos % 8) % 2

/-- The coefficient i ≤ N − 2 that UNPACKQ reads (R172). -/
def unpackCoeff (p : Params) (bytes : List Byte) (i : Nat) : Int :=
  sumTo p.logq fun t => (bitOf bytes (i * p.logq + t) * 2 ^ (p.logq - 1 - t) : Nat)

/-- UNPACKQ (R172): CONV = 0 recomputes the last coefficient from the zero sum, CONV = 1 takes 0. -/
def unpackqFn (p : Params) (last : LastCoeff) (bytes : List Byte) : Poly :=
  ofCoeffs p.n fun k =>
    if k = p.n - 1 then
      match last with
      | .sumZero => (-(sumTo (p.n - 1) fun i => unpackCoeff p bytes i)) % p.q
      | .zero => 0
    else unpackCoeff p bytes k

/-! ### Trit wire bytes -/

/-- The trit at index k of the stored ones: t[k] for k ≤ N − 2, else 0 (R174). `none` is UNSPEC. -/
def storedTrit (n : Nat) (t : List (Option Int)) (k : Nat) : Option Int :=
  if k < n - 1 then t.getD k (some 0) else some 0

/-- A byte of five base-3 digits, lowest index least significant; UNSPEC if one digit is (R174, R175). -/
def pack3Byte (n : Nat) (t : List (Option Int)) (i : Nat) : Option Byte :=
  match storedTrit n t (5 * i), storedTrit n t (5 * i + 1), storedTrit n t (5 * i + 2), storedTrit n t (5 * i + 3),
      storedTrit n t (5 * i + 4) with
  | some t0, some t1, some t2, some t3, some t4 => some (BitVec.ofInt 8 (t0 + 3 * t1 + 9 * t2 + 27 * t3 + 81 * t4))
  | _, _, _, _, _ => none

/-- `pack3(t)` (R174), with an UNSPEC byte where one of its trits is UNSPEC (R175). -/
def pack3Fn (p : Params) (t : List (Option Int)) : List (Option Byte) :=
  (List.range p.pack3Bytes).map (pack3Byte p.n t)

/-- A word as a trit; UNSPEC outside T3 (R175). -/
def tritOf (x : Int) : Option Int := if 0 ≤ x ∧ x ≤ 2 then some x else none

/-- UNPACK3 (R176): digit k mod 5 of byte ⌊k / 5⌋ for k ≤ N − 2, and 0 at N − 1. -/
def unpack3Fn (p : Params) (bytes : List Byte) : Poly :=
  ofCoeffs p.n fun k =>
    if k = p.n - 1 then 0 else (((bytes.getD (k / 5) 0).toNat / 3 ^ (k % 5) % 3 : Nat) : Int)

end Sys2Proof.Machine
end

