-- ==== Sys2Proof/Machine/Conversions.lean ====
section
/-! DEFINITION. The completions of Z3TOZQ, ZQTOZ3, ZQTOS, RQTOS3 and LIFT (41_conversions.md). -/

namespace Sys2Proof.Machine

/-- The words of coefficients that may be UNSPEC one by one (R150). -/
def convertedWords (cs : List (Option Int)) : List (Option Word) := cs.map fun c => c.map wordOf

/-- Z3TOZQ (R151): per coefficient, UNSPEC outside T3. -/
def execZ3tozq (d _a : SlotIx) (s : State) : Result :=
  whileInFlight s fun f =>
    completeSlotDrawn s d
      (convertedWords (convertEach s.params.n (z3ToZq s.params) (f.polyA s.params.n))) .ok

/-- ZQTOZ3 (R152): per coefficient, UNSPEC outside TQ. -/
def execZqtoz3 (d _a : SlotIx) (s : State) : Result :=
  whileInFlight s fun f =>
    completeSlotDrawn s d
      (convertedWords (convertEach s.params.n (zqToZ3 s.params) (f.polyA s.params.n))) .ok

/-- ZQTOS (R153): per coefficient, −1 as 0xFFFF, UNSPEC outside TQ. -/
def execZqtos (d _a : SlotIx) (s : State) : Result :=
  whileInFlight s fun f =>
    completeSlotDrawn s d
      (convertedWords (convertEach s.params.n (zqToS s.params) (f.polyA s.params.n))) .ok

/-- RQTOS3 (R154): the centred representative mod (3, Φ_N). -/
def execRqtos3 (d _a : SlotIx) (s : State) : Result :=
  whileInFlight s fun f => completeSlot s d (toWords (rqToS3 s.params (f.polyA s.params.n)))

/-- LIFT (R156): the family's lift, every word UNSPEC when a coefficient is outside T3. -/
def execLift (d _a : SlotIx) (s : State) : Result :=
  whileInFlight s fun f =>
    completeSlotDrawn s d
      (wordsOrUnspec s.params.n ((liftFn s.params (f.polyA s.params.n)).map toWords)) .ok

end Sys2Proof.Machine
end

