-- ==== Sys2Proof/Machine/Sampling.lean ====
section
/-! DEFINITION. The ternary samplers of 43_sampler.md as functions of the bytes; `none` means that the region holds
too few acceptable draws (R190(d)). -/

namespace Sys2Proof.Machine

/-- The accepted draws of SAMPIID, in order: every byte is examined and 255 is rejected (R191). -/
def acceptedTrits (bytes : List Byte) : List Int :=
  (bytes.filter fun b => decide (b.toNat < 255)).map fun b => ((b.toNat % 3 : Nat) : Int)

/-- SAMPIID (R191): the first N − 1 accepted draws, then 0. -/
def sampIidFn (p : Params) (bytes : List Byte) : Option Poly :=
  let acc := acceptedTrits bytes
  if acc.length < p.n - 1 then none
  else some (ofCoeffs p.n fun k => if k = p.n - 1 then 0 else coeff acc k)

/-- The draw words of SAMPFW: w_t = by[2t] + 256·by[2t+1] (R192). -/
def drawWords (p : Params) (bytes : List Byte) : List Nat :=
  (List.range (p.ftBytes / 2)).map fun t =>
    (bytes.getD (2 * t) 0).toNat + 256 * (bytes.getD (2 * t + 1) 0).toNat

/-- One word of the index draws of R193. The state is the index i now sought and the draws [j[i+1], …, j[L−1]] made. -/
def drawStep (st : Nat × List Nat) (w : Nat) : Nat × List Nat :=
  if st.1 ≥ 1 then
    let v := w % 2 ^ (Nat.log2 st.1 + 1)
    if v ≤ st.1 then (st.1 - 1, v :: st.2) else st
  else st

/-- The index draws j[0..L−1] with L = N − 1, or none when exhausted (R193). -/
def indexDraws (p : Params) (words : List Nat) : Option (List Nat) :=
  let st := words.foldl drawStep (p.n - 2, [])
  if st.1 ≥ 1 then none else some (0 :: st.2)

/-- One index of the counter pass of R194, from the top index down: the counters c1, c2 and the outputs above. -/
def counterStep (j : Nat) (st : Nat × Nat × List Int) : Nat × Nat × List Int :=
  let (c1, c2, out) := st
  if j < c1 then (c1 - 1, c2, 1 :: out)
  else if j < c1 + c2 then (c1, c2 - 1, 2 :: out)
  else (c1, c2, 0 :: out)

/-- The counter pass over the draws (R194): the trits out[0..L−1]. -/
def counterPass (p : Params) (js : List Nat) : List Int :=
  (js.foldr counterStep (p.weight / 2, p.weight / 2, [])).2.2

/-- SAMPFW (R195). -/
def sampFwFn (p : Params) (bytes : List Byte) : Option Poly :=
  match indexDraws p (drawWords p bytes) with
  | none => none
  | some js => some (ofCoeffs p.n fun k => if k = p.n - 1 then 0 else coeff (counterPass p js) k)

/-- The signed trit of a T3 value (R198): 2 stands for −1. -/
def signedTrit (x : Int) : Int := if x = 2 then -1 else x

/-- The T3 value of a signed trit (R198). -/
def unsignedTrit (x : Int) : Int := if x = -1 then 2 else x

/-- The correlation C = Σ_{i = 0..N−2} σ[i+1]·σ[i] of R198. -/
def correlation (n : Nat) (s : Poly) : Int :=
  sumTo (n - 1) fun i => signedTrit (coeff s (i + 1)) * signedTrit (coeff s i)

/-- SAMPBI (R198): SAMPIID, then the sign of every even index is flipped when the correlation is negative. -/
def sampBiFn (p : Params) (bytes : List Byte) : Option Poly :=
  match sampIidFn p bytes with
  | none => none
  | some s =>
    some (ofCoeffs p.n fun k =>
      let σ := signedTrit (coeff s k)
      unsignedTrit (if correlation p.n s < 0 ∧ k % 2 = 0 then -σ else σ))

end Sys2Proof.Machine
end

