-- ==== Sys2Proof/Machine/Primitive.lean ====
section
/-! DEFINITION. The OWCPA primitive of 44_owcpa.md as functions on values and byte strings. `none` stands for
UNSPEC (R13, R220). -/

namespace Sys2Proof.Machine

/-! ### Key generation -/

/-- The samples f and g of the seed, by family (R221); none when a sampler exhausts. -/
def sampleFG (p : Params) (seed : List Byte) : Option (Poly × Poly) :=
  let sf := seed.take p.iidBytes
  let sg := seed.drop p.iidBytes
  match p.family with
  | .fw =>
    match sampIidFn p sf, sampFwFn p (sg.take p.ftBytes) with
    | some f, some g => some (f, g)
    | _, _ => none
  | .bi =>
    match sampBiFn p sf, sampBiFn p (sg.take p.iidBytes) with
    | some f, some g => some (f, g)
    | _, _ => none

/-- The g-transform of R222: 3·gq, and in the BI family 3·(x − 1)·gq, in R_Q. -/
def transformG (p : Params) (g : Poly) : Poly :=
  let gq := z3ToZqPoly p g
  match p.family with
  | .fw => ofCoeffs p.n fun k => 3 * coeff gq k % p.q
  | .bi => ofCoeffs p.n fun k => 3 * coeff (timesXm1 p gq) k % p.q

/-- `invf3 = INV3_phi(f)` (R223); none when f is not invertible in S_3. -/
def invF3 (p : Params) (f : Poly) : Option Poly := invPrime p.n 3 .sPhi f

/-- `invgf = INVQ_phi(MULQ(gp, fq))` (R223); none when gf is not invertible in S_Q. -/
def invGF (p : Params) (f g : Poly) : Option Poly :=
  invQ p .sPhi (mulqFn p (transformG p g) (z3ToZqPoly p f))

/-- `invh = MULQ_phi(MULQ(invgf, fq), fq)` (R223). -/
def invHOf (p : Params) (f invgf : Poly) : Poly :=
  mulqPhiFn p (mulqFn p invgf (z3ToZqPoly p f)) (z3ToZqPoly p f)

/-- `h = MULQ(MULQ(invgf, gp), gp)` (R223). -/
def hOf (p : Params) (g invgf : Poly) : Poly :=
  mulqFn p (mulqFn p invgf (transformG p g)) (transformG p g)

/-- A byte string that is known. -/
def known (bs : List Byte) : List (Option Byte) := bs.map some

/-- A byte string of n UNSPEC bytes. -/
def unspecBytes (n : Nat) : List (Option Byte) := List.replicate n none

/-- The packed public key pk and secret key sk (R224, R225) of the samples f and g: the parts that depend on an inverse
that does not exist are UNSPEC, the others exact. -/
def keysOf (p : Params) (f g : Poly) : List (Option Byte) × List (Option Byte) :=
  let skF := pack3Fn p (f.map some)
  let skF3 := match invF3 p f with
    | some v => pack3Fn p (v.map some)
    | none => unspecBytes p.pack3Bytes
  match invGF p f g with
  | some invgf => (known (packqFn p (hOf p g invgf)), skF ++ skF3 ++ known (packqFn p (invHOf p f invgf)))
  | none => (unspecBytes p.pkBytes, skF ++ skF3 ++ unspecBytes p.packqBytes)

/-- KEYPAIR (R225): (pk, sk), or none when a sampler exhausts. -/
def keypairFn (p : Params) (seed : List Byte) : Option (List (Option Byte) × List (Option Byte)) :=
  match sampleFG p seed with
  | none => none
  | some (f, g) => some (keysOf p f g)

/-! ### Encryption -/

/-- ENC (R227): c = r·h + LIFT(m) in R_Q, packed; every byte UNSPEC when LIFT(m) is. -/
def encFn (p : Params) (r m : Poly) (pk : List Byte) : List (Option Byte) :=
  let h := unpackqFn p .sumZero pk
  match liftFn p m with
  | some l => known (packqFn p (ofCoeffs p.n fun k => (coeff (mulqFn p r h) k + coeff l k) % p.q))
  | none => unspecBytes p.ctBytes

/-! ### Decryption -/

/-- The three parts of the secret key (R229). -/
def skParts (p : Params) (sk : List Byte) : Poly × Poly × Poly :=
  (unpack3Fn p (sk.take p.pack3Bytes),
   unpack3Fn p ((sk.drop p.pack3Bytes).take p.pack3Bytes),
   unpackqFn p .zero ((sk.drop (2 * p.pack3Bytes)).take p.packqBytes))

/-- The message m that DEC recovers (R230, R232). -/
def recoverM (p : Params) (ct sk : List Byte) : Poly :=
  let c := unpackqFn p .sumZero ct
  let cf := mulqFn p c (z3ToZqPoly p (skParts p sk).1)
  mul3Fn p (rqToS3 p cf) (skParts p sk).2.1

/-- The r that DEC recovers (R230). LIFT(m) is never UNSPEC in a build of the spec (R232); in a BI build with
N mod 3 = 0, outside the spec (R8), r is UNSPEC. -/
def recoverR (p : Params) (ct sk : List Byte) : Option Poly :=
  let c := unpackqFn p .sumZero ct
  match liftFn p (recoverM p ct sk) with
  | some l => some (mulqPhiFn p (ofCoeffs p.n fun k => (coeff c k - coeff l k) % p.q) (skParts p sk).2.2)
  | none => none

/-- Check 1, ciphertext padding (R231). -/
def chkPad (p : Params) (ct : List Byte) : Bool :=
  decide ((ct.getD (p.ctBytes - 1) 0).toNat % 2 ^ p.padBits ≠ 0)

/-- How many of the N coefficients equal x. -/
def countEq (n : Nat) (a : Poly) (x : Int) : Nat := (List.range n).countP fun k => decide (coeff a k = x)

/-- Check 2, message space, FW family only (R233). -/
def chkM (p : Params) (m : Poly) : Bool :=
  match p.family with
  | .fw => decide (countEq p.n m 1 ≠ countEq p.n m 2) || decide (countEq p.n m 1 + countEq p.n m 2 ≠ p.weight)
  | .bi => false

/-- Check 3, r range (R234): some r[k], k ≤ N − 2, is outside TQ. -/
def chkR (p : Params) (r : Poly) : Bool :=
  (List.range (p.n - 1)).any fun k =>
    decide (coeff r k ≠ 0) && decide (coeff r k ≠ 1) && decide (coeff r k ≠ (p.q : Int) - 1)

/-- Check 4, r last coefficient (R235). -/
def chkLast (p : Params) (r : Poly) : Bool := decide (coeff r (p.n - 1) ≠ 0)

/-- DEC (R230, R236, R237): the output bytes rm = pack3(ZQTOZ3(r)) ‖ pack3(m), and the combined fail flag. None only
where `recoverR` is: in a build outside the spec. -/
def decFn (p : Params) (ct sk : List Byte) : Option (List (Option Byte) × Bool) :=
  let m := recoverM p ct sk
  match recoverR p ct sk with
  | some r =>
    some (pack3Fn p (convertEach p.n (zqToZ3 p) r) ++ pack3Fn p (m.map some),
      chkPad p ct || chkM p m || chkR p r || chkLast p r)
  | none => none

end Sys2Proof.Machine
end

