-- ==== Sys2Proof/Machine/Owcpa.lean ====
section
/-! DEFINITION. The completions of KEYPAIR, ENC and DEC (44_owcpa.md). None of them writes a slot. -/

namespace Sys2Proof.Machine

/-- KEYPAIR (R225): pk to CUR_BOFF1, then sk to CUR_BOFF2, so that on overlap the sk bytes win; when a sampler exhausts
every byte of both is UNSPEC and ERR = SAMPLE_EXHAUSTED. -/
def execKeypair (s : State) : Result :=
  whileInFlight s fun f =>
    match keypairFn s.params f.in0 with
    | some (pk, sk) =>
      storeBytes s f.boff1 pk fun t => storeBytes t f.boff2 sk fun u => .next (u.retire .ok)
    | none =>
      storeBytes s f.boff1 (unspecBytes s.params.pkBytes) fun t =>
        storeBytes t f.boff2 (unspecBytes s.params.skBytes) fun u => .next (u.retire .sampleExhausted)

/-- ENC (R227): r is P[A], m is P[B], pk lies at CUR_BOFF0; ct goes to CUR_BOFF1. -/
def execEnc (_a _b : SlotIx) (s : State) : Result :=
  whileInFlight s fun f =>
    storeBytes s f.boff1 (encFn s.params (f.polyA s.params.n) (f.polyB s.params.n) f.in0) fun t => .next (t.retire .ok)

/-- DEC (R230): ct lies at CUR_BOFF0 and sk at CUR_BOFF1; rm goes to CUR_BOFF2 and the combined check to RESULT.FAIL. -/
def execDec (s : State) : Result :=
  whileInFlight s fun f =>
    match decFn s.params f.in0 f.in1 with
    | some (rm, failed) => storeBytes s f.boff2 rm fun t => .next { t.retire .ok with fail := failed }
    | none => .fault .buildOutsideSpec

end Sys2Proof.Machine
end

