-- ==== Sys2Proof/Machine/Packing.lean ====
section
/-! DEFINITION. The completions of PACKQ, UNPACKQ, PACK3 and UNPACK3 (42_packing.md). -/

namespace Sys2Proof.Machine

/-- PACKQ (R171): the mod-Q wire bytes of P[A] go to BUF at CUR_BOFF0. -/
def execPackq (_a : SlotIx) (s : State) : Result :=
  whileInFlight s fun f =>
    storeBytes s f.boff0 ((packqFn s.params (f.polyA s.params.n)).map some) fun t => .next (t.retire .ok)

/-- UNPACKQ (R172): P[D] is read from the mod-Q wire bytes at CUR_BOFF0. -/
def execUnpackq (d : SlotIx) (last : LastCoeff) (s : State) : Result :=
  whileInFlight s fun f => completeSlot s d (toWords (unpackqFn s.params last f.in0))

/-- PACK3 (R175): the trit wire bytes of P[A] go to BUF at CUR_BOFF0; a byte with a word outside T3 is UNSPEC. -/
def execPack3 (_a : SlotIx) (s : State) : Result :=
  whileInFlight s fun f =>
    storeBytes s f.boff0 (pack3Fn s.params (convertEach s.params.n tritOf (f.polyA s.params.n))) fun t =>
      .next (t.retire .ok)

/-- UNPACK3 (R176): P[D] is read from the trit wire bytes at CUR_BOFF0. -/
def execUnpack3 (d : SlotIx) (s : State) : Result :=
  whileInFlight s fun f => completeSlot s d (toWords (unpack3Fn s.params f.in0))

end Sys2Proof.Machine
end

