-- ==== Sys2Proof/Machine/Samplers.lean ====
section
/-! DEFINITION. The completions of SAMPIID, SAMPFW and SAMPBI (43_sampler.md). -/

namespace Sys2Proof.Machine

/-- Completion of a sampler: the sample, or, when it exhausts, every word UNSPEC and ERR = SAMPLE_EXHAUSTED
(R190(d)). -/
def completeSample (s : State) (d : SlotIx) (sample : Option Poly) : Result :=
  completeSlotDrawn s d (wordsOrUnspec s.params.n (sample.map toWords))
    (match sample with | some _ => .ok | none => .sampleExhausted)

/-- SAMPIID (R191). -/
def execSampiid (d : SlotIx) (s : State) : Result :=
  whileInFlight s fun f => completeSample s d (sampIidFn s.params f.in0)

/-- SAMPFW (R195). -/
def execSampfw (d : SlotIx) (s : State) : Result :=
  whileInFlight s fun f => completeSample s d (sampFwFn s.params f.in0)

/-- SAMPBI (R198). -/
def execSampbi (d : SlotIx) (s : State) : Result :=
  whileInFlight s fun f => completeSample s d (sampBiFn s.params f.in0)

end Sys2Proof.Machine
end

