-- ==== Sys2Proof/Machine/Dispatch.lean ====
section
/-! DEFINITION. The meaning of each command: what its completion (R41) does in a state where it is in flight. -/

namespace Sys2Proof.Machine

def exec (i : Instr) (s : State) : Host.Outcome State Fault Refusal :=
  match i with
  | .mulq d a b phi => Sys2Proof.Machine.execMulq d a b phi s
  | .mul3 d a b => Sys2Proof.Machine.execMul3 d a b s
  | .inv2 d a ring => Sys2Proof.Machine.execInv2 d a ring s
  | .invq d a ring => Sys2Proof.Machine.execInvq d a ring s
  | .inv3 d a ring => Sys2Proof.Machine.execInv3 d a ring s
  | .z3tozq d a => Sys2Proof.Machine.execZ3tozq d a s
  | .zqtoz3 d a => Sys2Proof.Machine.execZqtoz3 d a s
  | .zqtos d a => Sys2Proof.Machine.execZqtos d a s
  | .rqtos3 d a => Sys2Proof.Machine.execRqtos3 d a s
  | .lift d a => Sys2Proof.Machine.execLift d a s
  | .packq a => Sys2Proof.Machine.execPackq a s
  | .unpackq d last => Sys2Proof.Machine.execUnpackq d last s
  | .pack3 a => Sys2Proof.Machine.execPack3 a s
  | .unpack3 d => Sys2Proof.Machine.execUnpack3 d s
  | .sampiid d => Sys2Proof.Machine.execSampiid d s
  | .sampfw d => Sys2Proof.Machine.execSampfw d s
  | .sampbi d => Sys2Proof.Machine.execSampbi d s
  | .keypair => Sys2Proof.Machine.execKeypair s
  | .enc a b => Sys2Proof.Machine.execEnc a b s
  | .dec => Sys2Proof.Machine.execDec s

end Sys2Proof.Machine
end

