-- ==== Sys2Proof/Machine/Flags.lean ====
section
/-! DEFINITION. The flags of R39 as the host sees them: the error codes of R260, the words of STATUS, CTRL and RESULT
(R30, R31, R33), the W1C write to STATUS, and the interrupt line (R38, R270). -/

namespace Sys2Proof.Machine

/-- The 4-bit code of STATUS.ERR (R260). -/
def ErrCode.code : ErrCode → BitVec 4
  | .ok => 0
  | .illegalOpcode => 1
  | .reservedField => 2
  | .badSlot => 3
  | .badRange => 4
  | .sampleExhausted => 5

/-- STATUS as read: BUSY in bit 0, DONE in bit 1, HAZ in bit 2, ERR in bits 11:8, every other bit 0 (R30). -/
def State.statusWord (s : State) : Bus :=
  (0#20 ++ ErrCode.code s.err ++ 0#5 ++ BitVec.ofBool s.haz ++ BitVec.ofBool s.done ++ BitVec.ofBool s.busy
    : BitVec (20 + 4 + 5 + 1 + 1 + 1))

/-- CTRL as read: IE in bit 0; SRST reads 0 (R31). -/
def State.ctrlWord (s : State) : Bus := (0#31 ++ BitVec.ofBool s.ie : BitVec (31 + 1))

/-- RESULT as read: FAIL in bit 0 (R33). -/
def State.resultWord (s : State) : Bus := (0#31 ++ BitVec.ofBool s.fail : BitVec (31 + 1))

/-- A write of w to STATUS: 1 clears DONE (bit 1) or HAZ (bit 2), 0 leaves it; the other fields are read-only (R30). -/
def writeStatus (s : State) (w : Bus) : State :=
  { s with done := s.done && !w.getLsbD 1, haz := s.haz && !w.getLsbD 2 }

/-- The interrupt output: irq = CTRL.IE AND STATUS.DONE, a level (R38, R270). -/
def State.irq (s : State) : Bool := s.ie && s.done

end Sys2Proof.Machine
end

