-- ==== Sys2Proof/Machine/Operands.lean ====
section
/-! DEFINITION. The operand forms of a command: which slots and BUF regions it reads and writes (R93), the submission
checks in their priority (R263, R264), the snapshot of the input set (R36), and the destination set (R303). -/

namespace Sys2Proof.Machine

/-- Which of BOFF0 to BOFF2 a BUF region starts at. -/
inductive BoffReg where
  /-- BOFF0. -/
  | b0
  /-- BOFF1. -/
  | b1
  /-- BOFF2. -/
  | b2
deriving DecidableEq, Repr

/-- A BUF region of R93: (register, length, direction). -/
structure Region where
  /-- The offset register. -/
  reg : BoffReg
  /-- The length in bytes. -/
  len : Nat
  /-- `true` for an output region, `false` for an input region. -/
  out : Bool
deriving DecidableEq, Repr

/-- The BUF regions of a command, in the order R264 checks them (R93). -/
def regions (p : Params) : Instr → List Region
  | .packq _ => [⟨.b0, p.packqBytes, true⟩]
  | .unpackq _ _ => [⟨.b0, p.packqBytes, false⟩]
  | .pack3 _ => [⟨.b0, p.pack3Bytes, true⟩]
  | .unpack3 _ => [⟨.b0, p.pack3Bytes, false⟩]
  | .sampiid _ => [⟨.b0, p.iidBytes, false⟩]
  | .sampfw _ => [⟨.b0, p.ftBytes, false⟩]
  | .sampbi _ => [⟨.b0, p.iidBytes, false⟩]
  | .keypair => [⟨.b0, p.fgBytes, false⟩, ⟨.b1, p.pkBytes, true⟩, ⟨.b2, p.skBytes, true⟩]
  | .enc _ _ => [⟨.b0, p.pkBytes, false⟩, ⟨.b1, p.ctBytes, true⟩]
  | .dec => [⟨.b0, p.ctBytes, false⟩, ⟨.b1, p.skBytes, false⟩, ⟨.b2, p.rmBytes, true⟩]
  | .mulq _ _ _ _ | .mul3 _ _ _ | .inv2 _ _ _ | .invq _ _ _ | .inv3 _ _ _ => []
  | .z3tozq _ _ | .zqtoz3 _ _ | .zqtos _ _ | .rqtos3 _ _ | .lift _ _ => []

/-- The destination slot of a command (R93), if it writes one. -/
def destSlot : Instr → Option SlotIx
  | .mulq d _ _ _ | .mul3 d _ _ | .inv2 d _ _ | .invq d _ _ | .inv3 d _ _ => some d
  | .z3tozq d _ | .zqtoz3 d _ | .zqtos d _ | .rqtos3 d _ | .lift d _ => some d
  | .unpackq d _ | .unpack3 d | .sampiid d | .sampfw d | .sampbi d => some d
  | .packq _ | .pack3 _ | .keypair | .enc _ _ | .dec => none

/-- The slot a command reads through field A (R93), if any. -/
def srcSlotA : Instr → Option SlotIx
  | .mulq _ a _ _ | .mul3 _ a _ | .inv2 _ a _ | .invq _ a _ | .inv3 _ a _ => some a
  | .z3tozq _ a | .zqtoz3 _ a | .zqtos _ a | .rqtos3 _ a | .lift _ a => some a
  | .packq a | .pack3 a | .enc a _ => some a
  | .unpackq _ _ | .unpack3 _ | .sampiid _ | .sampfw _ | .sampbi _ | .keypair | .dec => none

/-- The slot a command reads through field B (R93), if any. -/
def srcSlotB : Instr → Option SlotIx
  | .mulq _ _ b _ | .mul3 _ _ b | .enc _ b => some b
  | .inv2 _ _ _ | .invq _ _ _ | .inv3 _ _ _ => none
  | .z3tozq _ _ | .zqtoz3 _ _ | .zqtos _ _ | .rqtos3 _ _ | .lift _ _ => none
  | .packq _ | .pack3 _ | .unpackq _ _ | .unpack3 _ | .sampiid _ | .sampfw _ | .sampbi _ | .keypair | .dec => none

/-- The offset register's value in the state. -/
def State.boff (s : State) : BoffReg → Bus
  | .b0 => s.boff0
  | .b1 => s.boff1
  | .b2 => s.boff2

/-- The latched value of the offset register (R36). -/
def Flight.boff (f : Flight) : BoffReg → Bus
  | .b0 => f.boff0
  | .b1 => f.boff1
  | .b2 => f.boff2

/-- Check 4 of R263 passes: every region lies in BUF, the sum taken on unbounded integers. -/
def rangesOk (s : State) (i : Instr) : Bool :=
  (regions s.params i).all fun r => decide ((s.boff r.reg).toNat + r.len ≤ s.params.bufBytes)

/-- The error code of a word the decoder rejects (R260). -/
def errOfDecode : DecodeError → ErrCode
  | .illegalOpcode => .illegalOpcode
  | .reservedField => .reservedField

/-- The submission checks of R263 in the priority of R264: the command, or the code of the first check that fails. -/
def checkCommand (s : State) (w : Bus) : Except ErrCode Instr :=
  match decode w with
  | .error e => .error (errOfDecode e)
  | .ok i =>
    if !i.wf then .error .badSlot
    else if !rangesOk s i then .error .badRange
    else .ok i

/-! ### The snapshot of the input set (R36) -/

/-- The snapshot of a source slot: empty when the field is unused, none when a coefficient holds no value (R43). -/
def captureSlot (s : State) : Option SlotIx → Option (List Word)
  | none => some []
  | some a => s.readSlot a

/-- The input region at an offset register, if the command has one. -/
def inputRegion (p : Params) (i : Instr) (r : BoffReg) : Option Region :=
  (regions p i).find? fun g => decide (g.reg = r) && !g.out

/-- The snapshot of the input region at an offset register: empty when there is none. -/
def captureRegion (s : State) (i : Instr) (r : BoffReg) : Option (List Byte) :=
  match inputRegion s.params i r with
  | none => some []
  | some g => s.readBuf (s.boff r).toNat g.len

/-- What acceptance latches for the word w of command i with the given snapshot (R36). -/
def State.latch (s : State) (w : Bus) (inA inB : List Word) (in0 in1 : List Byte) : Flight :=
  { cmd := w, boff0 := s.boff0, boff1 := s.boff1, boff2 := s.boff2, inA := inA, inB := inB, in0 := in0, in1 := in1 }

/-- A write of w to CMD while BUSY = 0: rejection (R262), or acceptance with the input set snapshotted (R261). An input
set with a location that holds no value faults (R43). -/
def submit (s : State) (w : Bus) : Result :=
  match checkCommand s w with
  | .error e => .next (s.reject w e)
  | .ok i =>
    match captureSlot s (srcSlotA i), captureSlot s (srcSlotB i), captureRegion s i .b0, captureRegion s i .b1 with
    | some inA, some inB, some in0, some in1 => .next (s.accept (s.latch w inA inB in0 in1))
    | some _, some _, _, _ => .fault .unwrittenByte
    | _, _, _, _ => .fault .unwrittenCoeff

/-- A write to CMD (R29): ignored with HAZ set while busy (R266), else submitted. -/
def writeCmd (s : State) (w : Bus) : Result :=
  if s.busy then .next { s with haz := true } else submit s w

/-! ### Abort (R303) -/

/-- Make every byte of the output regions of a command UNSPEC, at the latched offsets. -/
def unspecRegions (f : Flight) : List Region → State → State
  | [], s => s
  | g :: rest, s =>
    unspecRegions f rest
      (if g.out then s.writeBufDrawn (f.boff g.reg).toNat (List.replicate g.len none) else s)

/-- Make every word and byte of the destination set of the aborted command f UNSPEC (R303). -/
def spoilDestinations (f : Flight) (s : State) : State :=
  match decode f.cmd with
  | .error _ => s
  | .ok i =>
    let s1 := match destSlot i with
      | some d => s.writeSlotDrawn d (List.replicate s.params.n none)
      | none => s
    unspecRegions f (regions s.params i) s1

/-- The abort of the command in flight, if there is one (R303): it never completes, and its destinations are UNSPEC. -/
def abortFlight (s : State) : State :=
  match s.flight with
  | some f => { spoilDestinations f s with flight := none }
  | none => s

/-- Every register at its value of R42. -/
def resetRegisters (s : State) : State :=
  { s with done := false, haz := false, err := .ok, ie := false, fail := false, boff0 := 0, boff1 := 0, boff2 := 0,
           errcmd := 0 }

/-- Hardware reset (R300) and soft reset (R302): abort, then the registers. Slots and BUF are kept otherwise. -/
def resetKeepingMemory (s : State) : State := resetRegisters (abortFlight s)

/-- Power-on reset (R300): the state of R42 and R43. The model's own counter and lists go on. -/
def resetPower (s : State) : State :=
  { State.powerOn s.params s.inputs with draws := s.draws, readData := s.readData }

/-! ### Placing a command for the next step -/

/-- The words of a slot for `placeCommand`: 0 where a coefficient holds no value. -/
def presentSlot (s : State) : Option SlotIx → List Word
  | none => []
  | some a => (List.range s.params.n).map fun k => (s.coeffAt a k).getD 0

/-- The bytes of an input region for `placeCommand`: 0 where a byte holds no value. -/
def presentRegion (s : State) (i : Instr) (r : BoffReg) : List Byte :=
  match inputRegion s.params i r with
  | none => []
  | some g => (List.range g.len).map fun t => (s.byteAt ((s.boff r).toNat + t)).getD 0

/-- The state in which the very next step runs the command word w. A word that passes the submission checks has been
accepted (R261) and the engine is scheduled next; the host has prepared its inputs as R304 asks, so a location of the
input set that holds no value enters the SNAPSHOT as 0 (slots and BUF are left alone; log entry 4). A word
that the checks reject stands as the host's next write to CMD of an idle machine. -/
def placeCommand (s : State) (w : Bus) : State :=
  match checkCommand s w with
  | .ok i =>
    { s.accept (s.latch w (presentSlot s (srcSlotA i)) (presentSlot s (srcSlotB i))
        (presentRegion s i .b0) (presentRegion s i .b1)) with inputs := .engine :: s.inputs }
  | .error _ => { s with flight := none, inputs := .write .word 0x20 w :: s.inputs }

end Sys2Proof.Machine
end

