-- ==== Sys2Proof/Machine/HostPort.lean ====
section
/-! DEFINITION. The host's transactions on the block's address space (R60 to R66, R311) and the other events that may
happen next (R300). -/

namespace Sys2Proof.Machine

/-- Where an aligned offset lies in the address map of R61. -/
inductive Target where
  /-- A word of the register block, 0x00000 to 0x0003F, by its byte offset. -/
  | register (off : Nat)
  /-- Coefficient word k of slot s in the slot window, 0x10000 to 0x1FFFF (R63). -/
  | coefficient (slot : SlotIx) (k : Nat)
  /-- The word of bytes BUF[4t..4t+3] in the BUF window, 0x20000 to 0x2FFFF (R64), by the index 4t. -/
  | bytes (first : Nat)
  /-- Unmapped (R62). -/
  | unmapped
deriving DecidableEq, Repr

/-- The address map of R61. -/
def target (off : Offset) : Target :=
  let o := off.toNat
  if o < 0x40 then .register o
  else if o < 0x10000 then .unmapped
  else if o < 0x20000 then .coefficient (BitVec.ofNat 4 ((o - 0x10000) / 0x2000)) ((o - 0x10000) % 0x2000 / 4)
  else if o < 0x30000 then .bytes (o - 0x20000)
  else .unmapped

/-- The value of a register as read (R21 to R35). CMD reads 0 (R29); unlisted offsets read 0 (R62). -/
def readRegister (s : State) (off : Nat) : Bus :=
  match off with
  | 0x00 => 0x4E524331
  | 0x04 => (0#16 ++ BitVec.ofNat 16 s.params.n : BitVec (16 + 16))
  | 0x08 => (0#27 ++ BitVec.ofNat 5 s.params.logq : BitVec (27 + 5))
  | 0x0C => (0#16 ++ BitVec.ofNat 16 s.params.weight : BitVec (16 + 16))
  | 0x10 => (0#20 ++ 8#4 ++ 0#7 ++ BitVec.ofBool (decide (s.params.family = .bi)) : BitVec (20 + 4 + 7 + 1))
  | 0x14 => BitVec.ofNat 32 s.params.iidBytes
  | 0x18 => BitVec.ofNat 32 s.params.ftBytes
  | 0x1C => BitVec.ofNat 32 s.params.bufBytes
  | 0x24 => s.statusWord
  | 0x28 => s.ctrlWord
  | 0x2C => s.resultWord
  | 0x30 => s.boff0
  | 0x34 => s.boff1
  | 0x38 => s.boff2
  | 0x3C => s.errcmd
  | _ => 0

/-- A write of w to CTRL: SRST (bit 1) performs a soft reset and ignores the other bits (R302), else IE is bit 0. -/
def writeCtrl (s : State) (w : Bus) : State :=
  if w.getLsbD 1 then resetKeepingMemory s else { s with ie := w.getLsbD 0 }

/-- A write of w to a register (R21 to R35); a write to a read-only or unlisted offset is ignored. -/
def writeRegister (s : State) (off : Nat) (w : Bus) : Result :=
  match off with
  | 0x20 => writeCmd s w
  | 0x24 => .next (writeStatus s w)
  | 0x28 => .next (writeCtrl s w)
  | 0x30 => .next { s with boff0 := w }
  | 0x34 => .next { s with boff1 := w }
  | 0x38 => .next { s with boff2 := w }
  | _ => .next s

/-- Byte lane j of a bus word (R64). -/
def lane (w : Bus) (j : Nat) : Byte := w.extractLsb' (8 * j) 8

/-- The byte of BUF in one lane as read: 0 beyond BUF (R62), none when it holds no value (R43). -/
def laneRead (s : State) (a : Nat) : Option Byte := if a < s.params.bufBytes then s.byteAt a else some 0

/-- One lane of a BUF window write; ignored beyond BUF (R62, R64). -/
def laneWrite (s : State) (a : Nat) (b : Byte) : State := if a < s.params.bufBytes then s.writeBuf a [b] else s

/-- A Read returns the word w. -/
def State.returns (s : State) (w : Bus) : State := { s with readData := some w }

/-- An aligned `Read(off)` (R60). -/
def hostRead (s : State) (off : Offset) : Result :=
  match target off with
  | .register o => .next (s.returns (readRegister s o))
  | .coefficient d k =>
    if s.busy then .fault .windowWhileBusy
    else if k < s.params.n then
      match s.coeffAt d k with
      | some w => .next (s.returns (w.zeroExtend 32))
      | none => .fault .unwrittenCoeff
    else .next (s.returns 0)
  | .bytes a =>
    if s.busy then .fault .windowWhileBusy
    else
      match laneRead s a, laneRead s (a + 1), laneRead s (a + 2), laneRead s (a + 3) with
      | some b0, some b1, some b2, some b3 => .next (s.returns (b3 ++ b2 ++ b1 ++ b0 : BitVec (8 + 8 + 8 + 8)))
      | _, _, _, _ => .fault .unwrittenByte
  | .unmapped => .next (s.returns 0)

/-- An aligned `Write(off, w)` (R60). -/
def hostWrite (s : State) (off : Offset) (w : Bus) : Result :=
  match target off with
  | .register o => writeRegister s o w
  | .coefficient d k =>
    if s.busy then .fault .windowWhileBusy
    else if k < s.params.n then .next (s.writeCoeff d k (w.extractLsb' 0 16))
    else .next s
  | .bytes a =>
    if s.busy then .fault .windowWhileBusy
    else
      .next (laneWrite (laneWrite (laneWrite (laneWrite s a (lane w 0)) (a + 1) (lane w 1)) (a + 2) (lane w 2)) (a + 3)
        (lane w 3))
  | .unmapped => .next s

/-- An access of the host goes on only if it is an aligned 32-bit access; any other is refused (R66). -/
def aligned32 (size : AccessSize) (off : Offset) (r : Result) : Result :=
  match size with
  | .word => if off.toNat % 4 = 0 then r else .refused .misalignedAccess
  | .half => .refused .narrowAccess
  | .byte => .refused .narrowAccess

/-- What an event other than the engine's turn does. `idle` is the answer for the engine's turn. -/
def hostEvent (s : State) (engine : Result) : Event → Result
  | .read size off => aligned32 size off (hostRead s off)
  | .write size off w => aligned32 size off (hostWrite s off w)
  | .hardwareReset => .next (resetKeepingMemory s)
  | .powerOnReset => .next (resetPower s)
  | .engine => engine

end Sys2Proof.Machine
end

