-- ==== Sys2Proof/Machine/Step.lean ====
section
/-! DEFINITION. One step of the machine: the next event of the schedule, or the engine's turn when none is left. -/

namespace Sys2Proof.Machine

/-- The engine's turn: with a command in flight its one enabled step, completion (R41); with none, nothing happens
(R301: it takes no action until the host writes CMD). -/
def engineTurn (s : State) : Host.Outcome State Fault Refusal :=
  match s.flight with
  | none => .next s
  | some f =>
    match decode f.cmd with
    | .ok i => exec i s
    | .error _ => .fault .latchUndecodable

/-- One step. Each event is one atomic step (R67, R271): the oldest of the schedule happens and leaves it. When the
schedule is empty the engine has its turn, so a command in flight completes (R41, weak fairness). -/
def step (s : State) : Host.Outcome State Fault Refusal :=
  match s.inputs with
  | [] => engineTurn s
  | e :: rest => hostEvent { s with inputs := rest } (engineTurn { s with inputs := rest }) e

/-- `s` with the command word `w` placed so that the very next step runs it (log entry 4). -/
def State.withFetchWord (s : State) (nbits w : Nat) : State :=
  placeCommand s (BitVec.ofNat 32 (w % 2 ^ nbits))

end Sys2Proof.Machine
end

