-- ==== Sys2Proof/Safety.lean ====
section
/-! DEFINITION. What the claims call a well-formed state and a safe stop. -/

namespace Sys2Proof.Machine

/-- The BUF regions of a command, at its latched offsets, lie in BUF (R263 check 4). -/
def Flight.inRange (p : Params) (f : Flight) (i : Instr) : Bool :=
  (regions p i).all fun r => decide ((f.boff r.reg).toNat + r.len ≤ p.bufBytes)

/-- The length of the snapshot of a source slot (R36). -/
def slotInputLength (p : Params) : Option SlotIx → Nat
  | none => 0
  | some _ => p.n

/-- The length of the snapshot of the input region at an offset register (R36). -/
def regionInputLength (p : Params) (i : Instr) (r : BoffReg) : Nat :=
  match inputRegion p i r with
  | none => 0
  | some g => g.len

/-- The latched command is one that the submission checks of R263 pass, and its snapshot has the size of its input
set (R36). -/
def Flight.valid (p : Params) (f : Flight) : Bool :=
  match decode f.cmd with
  | .error _ => false
  | .ok i =>
    i.wf && f.inRange p i
      && decide (f.inA.length = slotInputLength p (srcSlotA i)) && decide (f.inB.length = slotInputLength p (srcSlotB i))
      && decide (f.in0.length = regionInputLength p i .b0) && decide (f.in1.length = regionInputLength p i .b1)

/-- A memory in canonical form with every index below a bound. -/
abbrev Memory.wfBelow {α : Type} (m : Memory α) (bound : Nat) : Prop := Memory.wf m ∧ ∀ x ∈ m, x.1 < bound

/-- Slots hold coefficients 0 to N − 1 and BUF holds bytes 0 to BUF_BYTES − 1, in canonical form (R20, R32). -/
abbrev State.memWf (s : State) : Prop :=
  (∀ m ∈ s.slots.toList, Memory.wfBelow m s.params.n) ∧ Memory.wfBelow (α := Byte) s.buf s.params.bufBytes

/-- While a command is in flight DONE, ERR and RESULT.FAIL are 0 and the latch is valid (R261); so BUSY and DONE never hold
together (R30). -/
abbrev State.flightWf (s : State) : Prop :=
  ∀ f ∈ s.flight, f.valid s.params = true ∧ s.done = false ∧ s.err = .ok ∧ s.fail = false

/-- The invariant of the machine: a build of the spec (R7, R8), canonical memories, and a command in flight as acceptance
left it. -/
abbrev State.Inv (s : State) : Prop := s.params.wf = true ∧ s.memWf ∧ s.flightWf

/-- The stops that the SPEC asks a model to make (R43, R311); every other fault belongs to a state no run reaches. -/
def Fault.fromSpec : Fault → Bool
  | .unwrittenCoeff => true
  | .unwrittenByte => true
  | .windowWhileBusy => true
  | .engineIdle => false
  | .noSuchSlot => false
  | .outsideBuf => false
  | .latchUndecodable => false
  | .buildOutsideSpec => false

/-- The refusals that the SPEC asks a model to make (R66). -/
def Refusal.fromSpec : Refusal → Bool
  | .misalignedAccess => true
  | .narrowAccess => true
  | _ => false

end Sys2Proof.Machine
end

