-- ==== Sys2Proof/Certificates/Slice0/Obligations.lean ====
section
/-! DEFINITION. The statements for the provers, and the notions they are stated in, which follow the spec's words and
not the model's functions where the two can differ. -/

namespace Sys2Proof.Claims

open Sys2Proof Sys2Proof.Machine

/-! ### Completion and frame -/

/-- The command has completed with an error code: BUSY = 0, DONE = 1, ERR (R41). -/
def Completed (t : State) (e : ErrCode) : Prop := t.flight = none ∧ t.done = true ∧ t.err = e

/-- What no completion changes: the parameters, HAZ, CTRL, BOFF0 to BOFF2, ERRCMD, the schedule and the last read. -/
def Kept (s t : State) : Prop :=
  t.params = s.params ∧ t.haz = s.haz ∧ t.ie = s.ie ∧ t.boff0 = s.boff0 ∧ t.boff1 = s.boff1 ∧ t.boff2 = s.boff2 ∧
    t.errcmd = s.errcmd ∧ t.inputs = s.inputs ∧ t.readData = s.readData

/-- The N words of P[d] are `w 0, …, w (N − 1)`. -/
def Writes (s t : State) (d : SlotIx) (w : ℕ → Word) : Prop := ∀ k < s.params.n, t.coeffAt d k = some (w k)

/-- Every word of P[d] is UNSPEC: position k holds the free value of the draw number `draws + k`. -/
def WritesFree (s t : State) (d : SlotIx) : Prop :=
  ∀ k < s.params.n, t.coeffAt d k = some (Config.freeWord (s.draws + k))

/-- Nothing but the schedule, the last read and the flags and registers may differ: slots and BUF are the same. -/
def SameStorage (s t : State) : Prop :=
  (∀ d k, t.coeffAt d k = s.coeffAt d k) ∧ ∀ a, t.byteAt a = s.byteAt a

/-! ### Arithmetic -/

/-- Word k of a snapshot as a number. -/
def wordN (ws : List Word) (k : ℕ) : ℕ := (ws.getD k 0).toNat

/-- Byte k of a snapshot as a number. -/
def byteN (bs : List Byte) (k : ℕ) : ℕ := (bs.getD k 0).toNat

/-- The coefficient k of the product in R_Q of the two operands of a command, read mod Q (R120). -/
def productQ (p : Params) (f : Flight) (k : ℕ) : ℕ :=
  (∑ i ∈ Finset.range p.n, ∑ j ∈ Finset.range p.n,
    if (i + j) % p.n = k then (wordN f.inA i % p.q) * (wordN f.inB j % p.q) else 0) % p.q

/-- The cyclic convolution over the integers (R13). -/
def cyc (n : ℕ) (a b : ℕ → ℤ) (k : ℕ) : ℤ :=
  ∑ i ∈ Finset.range n, ∑ j ∈ Finset.range n, if (i + j) % n = k then a i * b j else 0

/-- x and y are the same element of S_m (RING = 0) or R_m (RING = 1), R12. -/
def RingEq (n : ℕ) (m : ℤ) (ring : RingSel) (x y : ℕ → ℤ) : Prop :=
  match ring with
  | .sPhi => ∀ k < n, (x k - x (n - 1)) % m = (y k - y (n - 1)) % m
  | .rXn => ∀ k < n, x k % m = y k % m

/-- The constant polynomial 1. -/
def one (k : ℕ) : ℤ := if k = 0 then 1 else 0

/-- a·v ≡ 1 in the ring (R124). -/
def IsInverse (n : ℕ) (m : ℤ) (ring : RingSel) (a v : ℕ → ℤ) : Prop := RingEq n m ring (cyc n a v) one

/-- v is a canonical representative of the ring (R12). -/
def IsCanonical (n : ℕ) (m : ℤ) (ring : RingSel) (v : ℕ → ℤ) : Prop :=
  (∀ k < n, 0 ≤ v k ∧ v k < m) ∧ (ring = .sPhi → v (n - 1) = 0)

/-- What an inverse command leaves, for the modulus m: the canonical inverse if there is one, else every word free
(R124). -/
def LeavesInverse (s t : State) (d : SlotIx) (m : ℤ) (ring : RingSel) (a : ℕ → ℤ) : Prop :=
  (∀ v, IsCanonical s.params.n m ring v → IsInverse s.params.n m ring a v →
    Writes s t d fun k => BitVec.ofInt 16 (v k)) ∧
  ((¬ ∃ v, IsInverse s.params.n m ring a v) → WritesFree s t d)

/-- The polynomial x − 1. -/
def xMinusOne (k : ℕ) : ℤ := if k = 0 then -1 else if k = 1 then 1 else 0

/-- The signed residue mod Q of an unsigned trit: 0 ↦ 0, 1 ↦ 1, 2 ↦ Q − 1 (R151). -/
def tritQ (p : Params) (x : ℤ) : ℤ := if x = 2 then (p.q : ℤ) - 1 else x

/-- The number of indices below `n` at which a polynomial has the value `x`. -/
def countOf (n : ℕ) (a : Poly) (x : ℤ) : ℕ := ((Finset.range n).filter fun k => coeff a k = x).card

/-! ### Samplers -/

/-- One byte of the scan of R191: accepted while fewer than N − 1 draws are made, unless it is 255. -/
def scanByte (p : Params) (acc : List ℕ) (b : Byte) : List ℕ :=
  if acc.length < p.n - 1 ∧ b.toNat < 255 then acc ++ [b.toNat % 3] else acc

/-- The scan of R191 over the whole region. -/
def scan (p : Params) (bytes : List Byte) : List ℕ := bytes.foldl (scanByte p) []

/-- The sorted template of R196. -/
def template (p : Params) : List ℤ :=
  List.replicate (p.weight / 2) 1 ++ List.replicate (p.weight / 2) 2 ++ List.replicate (p.n - 1 - p.weight) 0

/-- The template shuffle of R196 from the top index down: take T[j] and delete it from T. -/
def shuffleDown : List ℕ → List ℤ → List ℤ
  | [], _ => []
  | j :: js, T => T.getD j 0 :: shuffleDown js (T.eraseIdx j)

/-- The outputs out[0..L−1] of the template shuffle for the draws j[0..L−1]. -/
def shuffle (p : Params) (js : List ℕ) : List ℤ := (shuffleDown js.reverse (template p)).reverse

/-- The draw words of R192: FT_BYTES/2 of them, word t being byte 2t plus 256 times byte 2t + 1. -/
def wordsOf (p : Params) (bytes : List Byte) : List ℕ :=
  (List.range (p.ftBytes / 2)).map fun t => byteN bytes (2 * t) + 256 * byteN bytes (2 * t + 1)

/-- Draw word x masked to the bits of the index i (R193). -/
def masked (words : List ℕ) (x i : ℕ) : ℕ := words.getD x 0 % 2 ^ (Nat.log2 i + 1)

/-- Word x comes after every word that is used for an index above i, the indices going down from N − 2. -/
def After (n : ℕ) (pos : ℕ → ℕ) (i x : ℕ) : Prop := ∀ k < n - 1, i < k → pos k < x

/-- Each index k above i, up to N − 2, is drawn at the word `pos k`: the first word after those used for the indices above k
that is at most k when masked (R193). -/
def DrawnAbove (n : ℕ) (words : List ℕ) (pos : ℕ → ℕ) (i : ℕ) : Prop :=
  ∀ k < n - 1, i < k →
    pos k < words.length ∧ masked words (pos k) k ≤ k ∧ After n pos k (pos k) ∧
      ∀ x < pos k, After n pos k x → k < masked words x k

/-- The index draws of R193 are made and are js: j[0] = 0, and every j[i] is the masked word drawn for i. -/
def IsDraws (n : ℕ) (words js : List ℕ) : Prop :=
  js.length = n - 1 ∧ (∀ i < n - 1, js.getD i 0 ≤ i) ∧ ∃ pos : ℕ → ℕ, DrawnAbove n words pos 0 ∧
    ∀ i < n - 1, 0 < i → js.getD i 0 = masked words (pos i) i

/-- The words run out (R193): at some index i ≥ 1, with every index above it drawn, no word that is left is at most i when
masked. -/
def RunsOut (n : ℕ) (words : List ℕ) : Prop :=
  ∃ i, 1 ≤ i ∧ i < n - 1 ∧ ∃ pos : ℕ → ℕ, DrawnAbove n words pos i ∧
    ∀ x < words.length, After n pos i x → i < masked words x i

/-- The sample of SAMPIID (R191): the N − 1 draws of the scan, then 0; none when the scan makes fewer (R190(d)). -/
def iidSample (p : Params) (bytes : List Byte) : Option Poly :=
  if (scan p bytes).length < p.n - 1 then none else some ((scan p bytes).map (fun v => (v : ℤ)) ++ [0])

/-- c is the sample of SAMPFW (R195): the shuffle of the template by the index draws, then 0. -/
def IsFwSample (p : Params) (bytes : List Byte) (c : Poly) : Prop :=
  ∃ js, IsDraws p.n (wordsOf p bytes) js ∧ c = shuffle p js ++ [0]

/-- The signed trit σ of a value in {0, 1, 2} (R198). -/
def sigma (x : ℤ) : ℤ := if x = 2 then -1 else x

/-- The correlation C of R198: the sum of the products of adjacent signed trits, over i = 0 to N − 2. -/
def corr (n : ℕ) (c : Poly) : ℤ := ∑ i ∈ Finset.range (n - 1), sigma (coeff c (i + 1)) * sigma (coeff c i)

/-- The sign fix of R198 on coefficient k: where C < 0, the trits 1 and 2 change places at every even k. -/
def signFix (n : ℕ) (c : Poly) (k : ℕ) : ℤ := if corr n c < 0 ∧ k % 2 = 0 then (3 - coeff c k) % 3 else coeff c k

/-- The sample of SAMPBI (R198). -/
def biSample (p : Params) (bytes : List Byte) : Option Poly :=
  (iidSample p bytes).map fun c => (List.range p.n).map (signFix p.n c)

/-- The seed bytes that f is sampled from (R221). -/
def seedF (p : Params) (seed : List Byte) : List Byte := seed.take p.iidBytes

/-- The seed bytes that g is sampled from (R221): FT_BYTES of them in the FW family, IID_BYTES in the BI family. -/
def seedG (p : Params) (seed : List Byte) : List Byte :=
  (seed.drop p.iidBytes).take (if p.family = .fw then p.ftBytes else p.iidBytes)

/-- f and g are the samples of the seed, by family (R221). -/
def IsSampleFG (p : Params) (seed : List Byte) (f g : Poly) : Prop :=
  match p.family with
  | .fw => iidSample p (seedF p seed) = some f ∧ IsFwSample p (seedG p seed) g
  | .bi => biSample p (seedF p seed) = some f ∧ biSample p (seedG p seed) = some g

/-- One of the two samplers of the seed exhausts (R190(d), R225). -/
def SeedExhausts (p : Params) (seed : List Byte) : Prop :=
  match p.family with
  | .fw => iidSample p (seedF p seed) = none ∨ RunsOut p.n (wordsOf p (seedG p seed))
  | .bi => biSample p (seedF p seed) = none ∨ biSample p (seedG p seed) = none

/-- BUF[a] holds a free value. -/
def HoldsFree (t : State) (a : ℕ) : Prop := ∃ i, t.byteAt a = some (Config.freeByte i)

/-! ### The command word -/

/-- The opcode map R93: OP, then which of D, A, B and MODE[0] the row uses. -/
def opRows : List (ℕ × Bool × Bool × Bool × Bool) :=
  [(0x01, true, true, true, true), (0x02, true, true, true, false), (0x03, true, true, false, true),
   (0x04, true, true, false, true), (0x05, true, true, false, true), (0x08, true, true, false, false),
   (0x09, true, true, false, false), (0x0A, true, true, false, false), (0x0B, true, true, false, false),
   (0x0C, true, true, false, false), (0x10, false, true, false, false), (0x11, true, false, false, true),
   (0x12, false, true, false, false), (0x13, true, false, false, false), (0x20, true, false, false, false),
   (0x21, true, false, false, false), (0x22, true, false, false, false), (0x30, false, false, false, false),
   (0x31, false, true, true, false), (0x32, false, false, false, false)]

/-- The BUF regions of R93 by OP: which BOFF register, and the length. -/
def opRegions (p : Params) (op : ℕ) : List (ℕ × ℕ) :=
  if op = 0x10 ∨ op = 0x11 then [(0, p.packqBytes)]
  else if op = 0x12 ∨ op = 0x13 then [(0, p.pack3Bytes)]
  else if op = 0x20 ∨ op = 0x22 then [(0, p.iidBytes)]
  else if op = 0x21 then [(0, p.ftBytes)]
  else if op = 0x30 then [(0, p.fgBytes), (1, p.pkBytes), (2, p.skBytes)]
  else if op = 0x31 then [(0, p.pkBytes), (1, p.ctBytes)]
  else if op = 0x32 then [(0, p.ctBytes), (1, p.skBytes), (2, p.rmBytes)]
  else []

/-- The value of BOFF<i>. -/
def boffN (s : State) (i : ℕ) : ℕ :=
  if i = 0 then s.boff0.toNat else if i = 1 then s.boff1.toNat else s.boff2.toNat

/-- Bits hi:lo of a word, given as lo and the width. -/
def bits (w : Bus) (lo width : ℕ) : ℕ := w.toNat / 2 ^ lo % 2 ^ width

/-- Check 2 of R263 fails for the row (d, a, b, m). -/
def reservedBad (w : Bus) (d a b m : Bool) : Prop :=
  bits w 24 8 ≠ 0 ∨ bits w 21 3 ≠ 0 ∨ (m = false ∧ bits w 20 1 ≠ 0) ∨ (d = false ∧ bits w 8 4 ≠ 0) ∨
    (a = false ∧ bits w 12 4 ≠ 0) ∨ (b = false ∧ bits w 16 4 ≠ 0)

/-- Check 3 of R263 fails for the row (d, a, b). -/
def slotBad (w : Bus) (d a b : Bool) : Prop :=
  (d = true ∧ 8 ≤ bits w 8 4) ∨ (a = true ∧ 8 ≤ bits w 12 4) ∨ (b = true ∧ 8 ≤ bits w 16 4)

/-- Check 4 of R263 fails for the regions of OP. -/
def rangeBad (s : State) (w : Bus) : Prop :=
  ∃ g ∈ opRegions s.params (bits w 0 8), s.params.bufBytes < boffN s g.1 + g.2

/-- The rejection of R262: DONE, ERR and ERRCMD, and nothing else. -/
def rejected (s : State) (w : Bus) (e : ErrCode) : State := { s with done := true, err := e, errcmd := w }

/-- The word w passes the four checks of R263, in a row of R93 that reads P[A] if `a` and P[B] if `b`. -/
def Passes (s : State) (w : Bus) (a b : Bool) : Prop :=
  ∃ d m, (bits w 0 8, d, a, b, m) ∈ opRows ∧ ¬ reservedBad w d a b m ∧ ¬ slotBad w d a b ∧ ¬ rangeBad s w

/-- The slot that field A of a word names. -/
def slotFieldA (w : Bus) : SlotIx := BitVec.ofNat 4 (bits w 12 4)

/-- The slot that field B of a word names. -/
def slotFieldB (w : Bus) : SlotIx := BitVec.ofNat 4 (bits w 16 4)

/-- The INPUT regions of R93 by OP: which BOFF register, and the length. -/
def opInputs (p : Params) (op : ℕ) : List (ℕ × ℕ) :=
  if op = 0x11 then [(0, p.packqBytes)]
  else if op = 0x13 then [(0, p.pack3Bytes)]
  else if op = 0x20 ∨ op = 0x22 then [(0, p.iidBytes)]
  else if op = 0x21 then [(0, p.ftBytes)]
  else if op = 0x30 then [(0, p.fgBytes)]
  else if op = 0x31 then [(0, p.pkBytes)]
  else if op = 0x32 then [(0, p.ctBytes), (1, p.skBytes)]
  else []

/-- A slot every coefficient of which holds a value. -/
def SlotWritten (s : State) (d : SlotIx) : Prop := ∀ k < s.params.n, (s.coeffAt d k).isSome

/-- Every slot that the word's row reads is written. -/
def SlotsWritten (s : State) (w : Bus) (a b : Bool) : Prop :=
  (a = true → SlotWritten s (slotFieldA w)) ∧ (b = true → SlotWritten s (slotFieldB w))

/-- Every byte of the input regions of the word's row is written. -/
def RegionsWritten (s : State) (w : Bus) : Prop :=
  ∀ g ∈ opInputs s.params (bits w 0 8), ∀ j < g.2, (s.byteAt (boffN s g.1 + j)).isSome

/-- The match/mask rows of spec/opcode_table.json, with the constructor each selects. -/
def maskRows : List (ℕ × ℕ × (Instr → Bool)) :=
  [(0x00000001, 0xFFE000FF, fun | .mulq _ _ _ _ => true | _ => false),
   (0x00000002, 0xFFF000FF, fun | .mul3 _ _ _ => true | _ => false),
   (0x00000003, 0xFFEF00FF, fun | .inv2 _ _ _ => true | _ => false),
   (0x00000004, 0xFFEF00FF, fun | .invq _ _ _ => true | _ => false),
   (0x00000005, 0xFFEF00FF, fun | .inv3 _ _ _ => true | _ => false),
   (0x00000008, 0xFFFF00FF, fun | .z3tozq _ _ => true | _ => false),
   (0x00000009, 0xFFFF00FF, fun | .zqtoz3 _ _ => true | _ => false),
   (0x0000000A, 0xFFFF00FF, fun | .zqtos _ _ => true | _ => false),
   (0x0000000B, 0xFFFF00FF, fun | .rqtos3 _ _ => true | _ => false),
   (0x0000000C, 0xFFFF00FF, fun | .lift _ _ => true | _ => false),
   (0x00000010, 0xFFFF0FFF, fun | .packq _ => true | _ => false),
   (0x00000011, 0xFFEFF0FF, fun | .unpackq _ _ => true | _ => false),
   (0x00000012, 0xFFFF0FFF, fun | .pack3 _ => true | _ => false),
   (0x00000013, 0xFFFFF0FF, fun | .unpack3 _ => true | _ => false),
   (0x00000020, 0xFFFFF0FF, fun | .sampiid _ => true | _ => false),
   (0x00000021, 0xFFFFF0FF, fun | .sampfw _ => true | _ => false),
   (0x00000022, 0xFFFFF0FF, fun | .sampbi _ => true | _ => false),
   (0x00000030, 0xFFFFFFFF, fun | .keypair => true | _ => false),
   (0x00000031, 0xFFF00FFF, fun | .enc _ _ => true | _ => false),
   (0x00000032, 0xFFFFFFFF, fun | .dec => true | _ => false)]

end Sys2Proof.Claims

section

open Sys2Proof Sys2Proof.Machine Sys2Proof.Claims

/-! ## The command word -/

/-- The words of the table in R98 decode to the commands the table writes beside them. -/
def Obligations.ExampleWordsDecode : Prop :=
  decode 0x00010201 = .ok (.mulq 2 0 1 false) ∧ decode 0x00121301 = .ok (.mulq 3 1 2 true) ∧
  decode 0x00032402 = .ok (.mul3 4 2 3) ∧ decode 0x00000104 = .ok (.invq 1 0 .sPhi) ∧
  decode 0x00100104 = .ok (.invq 1 0 .rXn) ∧ decode 0x00000205 = .ok (.inv3 2 0 .sPhi) ∧
  decode 0x00001108 = .ok (.z3tozq 1 1) ∧ decode 0x0000450C = .ok (.lift 5 4) ∧
  decode 0x00003010 = .ok (.packq 3) ∧ decode 0x00100611 = .ok (.unpackq 6 .zero) ∧
  decode 0x00000012 = .ok (.pack3 0) ∧ decode 0x00000713 = .ok (.unpack3 7) ∧
  decode 0x00000020 = .ok (.sampiid 0) ∧ decode 0x00000121 = .ok (.sampfw 1) ∧
  decode 0x00000222 = .ok (.sampbi 2) ∧ decode 0x00000030 = .ok .keypair ∧
  decode 0x00010031 = .ok (.enc 0 1) ∧ decode 0x00000032 = .ok .dec

/-- R90 to R93: the encoder's word of every command decodes to that command, with every operand at every value of its
field, the slot numbers 8 to 15 included; and a decoded word is the encoder's word, so no bit of it is dropped. -/
def Obligations.DecodeInvertsEncode : Prop :=
  (∀ i, decode (encode i) = .ok i) ∧ ∀ w i, decode w = .ok i → encode i = w

/-- R94: a word selects a row with no RESERVED_FIELD error exactly when (w AND mask) = match, for the match and mask of
each row of the opcode table. -/
def Obligations.MatchMaskSelectsRow : Prop :=
  ∀ r ∈ maskRows, ∀ w : Bus,
    w &&& BitVec.ofNat 32 r.2.1 = BitVec.ofNat 32 r.1 ↔ ∃ i, decode w = .ok i ∧ r.2.2 i = true

/-! ## Submission -/

/-- R262 to R264: a bus write of w to CMD, offset 0x020, while BUSY = 0 is rejected with the code of the first check of R263
that fails, and changes DONE, ERR and ERRCMD only. The checks are stated on the bits of w and on BOFF0 to BOFF2. -/
def Obligations.SubmissionRejectsByPriority : Prop :=
  ∀ (s : State) (w : Bus), s.flight = none →
    (bits w 0 8 ∉ opRows.map (·.1) → hostWrite s 0x020 w = .next (rejected s w .illegalOpcode)) ∧
    ∀ op d a b m, (op, d, a, b, m) ∈ opRows → bits w 0 8 = op →
      (reservedBad w d a b m → hostWrite s 0x020 w = .next (rejected s w .reservedField)) ∧
      (¬ reservedBad w d a b m → slotBad w d a b → hostWrite s 0x020 w = .next (rejected s w .badSlot)) ∧
      (¬ reservedBad w d a b m → ¬ slotBad w d a b → rangeBad s w →
        hostWrite s 0x020 w = .next (rejected s w .badRange))

/-- R261, R263, R36: a bus write to CMD, offset 0x020, while BUSY = 0 of a word whose bits pass the four checks and whose input
set is written is accepted: CUR_CMD, CUR_BOFF0 to CUR_BOFF2 and the snapshot are latched, DONE, ERR and RESULT become 0, and
nothing else changes. -/
def Obligations.AcceptanceLatchesInputs : Prop :=
  ∀ (s : State) (w : Bus) (a b : Bool), s.flight = none → Passes s w a b → SlotsWritten s w a b → RegionsWritten s w →
    ∃ fl : Flight,
      hostWrite s 0x020 w = .next { s with flight := some fl, done := false, err := .ok, fail := false } ∧
      fl.cmd = w ∧ fl.boff0 = s.boff0 ∧ fl.boff1 = s.boff1 ∧ fl.boff2 = s.boff2 ∧
      (a = true → fl.inA.length = s.params.n ∧ ∀ k < s.params.n, fl.inA[k]? = s.coeffAt (slotFieldA w) k) ∧
      (b = true → fl.inB.length = s.params.n ∧ ∀ k < s.params.n, fl.inB[k]? = s.coeffAt (slotFieldB w) k) ∧
      ∀ g ∈ opInputs s.params (bits w 0 8),
        (g.1 = 0 → fl.in0.length = g.2 ∧ ∀ j < g.2, fl.in0[j]? = s.byteAt (s.boff0.toNat + j)) ∧
        (g.1 = 1 → fl.in1.length = g.2 ∧ ∀ j < g.2, fl.in1[j]? = s.byteAt (s.boff1.toNat + j))

/-- R43: a bus write to CMD, offset 0x020, while BUSY = 0 of a word that passes the checks and whose input set holds a
coefficient that nothing has written faults; one whose slots are written but whose input regions hold such a byte faults too.
That the fault comes at submission, and the slots' first, is the model's choice (log entry 5). -/
def Obligations.UnwrittenInputFaults : Prop :=
  ∀ (s : State) (w : Bus) (a b : Bool), s.flight = none → Passes s w a b →
    (¬ SlotsWritten s w a b → hostWrite s 0x020 w = .fault .unwrittenCoeff) ∧
    (SlotsWritten s w a b → ¬ RegionsWritten s w → hostWrite s 0x020 w = .fault .unwrittenByte)

/-! ## The step -/

/-- R41, R67: a step takes the oldest event of the schedule. When that is the engine's turn, or the schedule is empty, a step
with a command in flight is `exec` of the command its latched word decodes to, and with none in flight nothing happens (R40,
R301). An aligned 32-bit Read or Write is that host transaction. The event taken leaves the schedule. -/
def Obligations.StepRunsNextEvent : Prop :=
  ∀ s : State,
    (∀ f i, s.flight = some f → decode f.cmd = .ok i →
      (s.inputs = [] → step s = exec i s) ∧
      ∀ rest, s.inputs = .engine :: rest → step s = exec i { s with inputs := rest }) ∧
    (s.flight = none →
      (s.inputs = [] → step s = .next s) ∧
      ∀ rest, s.inputs = .engine :: rest → step s = .next { s with inputs := rest }) ∧
    ∀ (off : Offset) (w : Bus) (rest : List Event), off.toNat % 4 = 0 →
      (s.inputs = .read .word off :: rest → step s = hostRead { s with inputs := rest } off) ∧
      (s.inputs = .write .word off w :: rest → step s = hostWrite { s with inputs := rest } off w)

/-! ## Ring arithmetic -/

/-- R120, R121: MULQ completes and leaves in P[D] the product in R_Q of its operands, and with PHI = 1 that product with its
last coefficient subtracted from each, mod Q. -/
def Obligations.MulqWritesProduct : Prop :=
  ∀ (s : State) (f : Flight) (d a b : SlotIx) (withPhi : Bool), s.flight = some f → d.toNat < 8 →
    ∃ t, exec (.mulq d a b withPhi) s = .next t ∧ Completed t .ok ∧
      Writes s t d fun k => BitVec.ofNat 16 <|
        if withPhi then (productQ s.params f k + (s.params.q - productQ s.params f (s.params.n - 1))) % s.params.q
        else productQ s.params f k

/-- R122: MUL3 completes and leaves in P[D] the mod-Q product reduced mod 3 and then mod Φ_N. -/
def Obligations.Mul3WritesReducedProduct : Prop :=
  ∀ (s : State) (f : Flight) (d a b : SlotIx), s.flight = some f → d.toNat < 8 →
    ∃ t, exec (.mul3 d a b) s = .next t ∧ Completed t .ok ∧
      Writes s t d fun k => BitVec.ofNat 16 <|
        (productQ s.params f k % 3 + (3 - productQ s.params f (s.params.n - 1) % 3)) % 3

/-- R123: for operands in T3 whose integer convolution stays below Q, MUL3 is the canonical product in S_3. -/
def Obligations.Mul3ExactBelowQ : Prop :=
  ∀ (p : Params) (a b : Poly), p.wf = true → inT3 p.n a = true → inT3 p.n b = true →
    (∀ k < p.n, cyc p.n (coeff a) (coeff b) k < p.q) →
    RingEq p.n 3 .sPhi (coeff (mul3Fn p a b)) (cyc p.n (coeff a) (coeff b)) ∧
      IsCanonical p.n 3 .sPhi (coeff (mul3Fn p a b))

/-- R124, R125, R127: INV2 and INV3 complete with ERR = 0; P[D] holds the canonical inverse of the operand if it has one in
the selected ring, and otherwise only free values. -/
def Obligations.Inv2Inv3WriteInverse : Prop :=
  ∀ (s : State) (f : Flight) (d a : SlotIx) (ring : RingSel), s.params.wf = true → s.flight = some f → d.toNat < 8 →
    (∃ t, exec (.inv2 d a ring) s = .next t ∧ Completed t .ok ∧
      LeavesInverse s t d 2 ring fun k => (wordN f.inA k : ℤ)) ∧
    ∃ t, exec (.inv3 d a ring) s = .next t ∧ Completed t .ok ∧
      LeavesInverse s t d 3 ring fun k => (wordN f.inA k : ℤ)

/-- R124, R126: INVQ completes with ERR = 0; P[D] holds the canonical inverse mod Q of the operand if it has one in the
selected ring, and otherwise only free values. -/
def Obligations.InvqWritesInverse : Prop :=
  ∀ (s : State) (f : Flight) (d a : SlotIx) (ring : RingSel), s.params.wf = true → s.flight = some f → d.toNat < 8 →
    ∃ t, exec (.invq d a ring) s = .next t ∧ Completed t .ok ∧
      LeavesInverse s t d s.params.q ring fun k => (wordN f.inA k : ℤ)

/-- R124: whatever the inverse functions answer is a canonical inverse (the model never answers a wrong one). -/
def Obligations.AnsweredInverseIsInverse : Prop :=
  ∀ (p : Params) (ring : RingSel) (a v : Poly), p.wf = true →
    (∀ m : ℤ, m = 2 ∨ m = 3 → invPrime p.n m ring a = some v →
      IsInverse p.n m ring (coeff a) (coeff v) ∧ IsCanonical p.n m ring (coeff v)) ∧
    (invQ p ring a = some v →
      IsInverse p.n p.q ring (coeff a) (coeff v) ∧ IsCanonical p.n p.q ring (coeff v))

/-- R128: a is invertible mod Q exactly when it is invertible mod 2 in the same ring, an inverse mod Q is an inverse mod 2, and
so for the inverses that the commands compute. -/
def Obligations.InvertibleModQIffMod2 : Prop :=
  ∀ (p : Params) (ring : RingSel) (a : Poly), p.wf = true →
    ((∃ v, IsInverse p.n p.q ring (coeff a) v) ↔ ∃ v, IsInverse p.n 2 ring (coeff a) v) ∧
    (∀ v, IsInverse p.n p.q ring (coeff a) v → IsInverse p.n 2 ring (coeff a) v) ∧
    ((invQ p ring a).isSome = (invPrime p.n 2 ring a).isSome) ∧
    ∀ v w, invQ p ring a = some v → invPrime p.n 2 ring a = some w → ∀ k < p.n, coeff v k % 2 = coeff w k

/-! ## Conversions -/

/-- R150 to R153: Z3TOZQ, ZQTOZ3 and ZQTOS complete and map each coefficient as their tables say, with a free value at the
coefficients outside the domain and at no other. -/
def Obligations.TritConversionsPerCoefficient : Prop :=
  ∀ (s : State) (f : Flight) (d a : SlotIx), s.params.wf = true → s.flight = some f → d.toNat < 8 →
    (∃ t, exec (.z3tozq d a) s = .next t ∧ Completed t .ok ∧
      Writes s t d fun k =>
        if wordN f.inA k = 0 then 0 else if wordN f.inA k = 1 then 1
        else if wordN f.inA k = 2 then BitVec.ofNat 16 (s.params.q - 1) else Config.freeWord (s.draws + k)) ∧
    (∃ t, exec (.zqtoz3 d a) s = .next t ∧ Completed t .ok ∧
      Writes s t d fun k =>
        if wordN f.inA k % s.params.q = 0 then 0 else if wordN f.inA k % s.params.q = 1 then 1
        else if wordN f.inA k % s.params.q = s.params.q - 1 then 2 else Config.freeWord (s.draws + k)) ∧
    ∃ t, exec (.zqtos d a) s = .next t ∧ Completed t .ok ∧
      Writes s t d fun k =>
        if wordN f.inA k % s.params.q = 0 then 0 else if wordN f.inA k % s.params.q = 1 then 1
        else if wordN f.inA k % s.params.q = s.params.q - 1 then 0xFFFF else Config.freeWord (s.draws + k)

/-- R154: RQTOS3 completes and leaves the centred representatives reduced mod 3 and mod Φ_N. -/
def Obligations.Rqtos3WritesCentredResidues : Prop :=
  ∀ (s : State) (f : Flight) (d a : SlotIx), s.flight = some f → d.toNat < 8 →
    let u : ℕ → ℤ := fun k =>
      let v : ℤ := wordN f.inA k % s.params.q
      (if 2 * v ≥ s.params.q then v - s.params.q else v) % 3
    s.params.wf = true →
    ∃ t, exec (.rqtos3 d a) s = .next t ∧ Completed t .ok ∧
      Writes s t d fun k => BitVec.ofInt 16 ((u k - u (s.params.n - 1)) % 3)

/-- R150, R156: LIFT completes. A message outside T3 leaves only free values. Otherwise the FW build leaves Z3TOZQ of it, and
the BI build leaves (x − 1)·Z3TOZQ(B) in R_Q for a B in T3 with B[N−1] = 0 and (x − 1)·B ≡ m (mod 3, Φ_N). -/
def Obligations.LiftWritesFamilyLift : Prop :=
  ∀ (s : State) (f : Flight) (d a : SlotIx), s.params.wf = true → s.flight = some f → d.toNat < 8 →
    ∃ t, exec (.lift d a) s = .next t ∧ Completed t .ok ∧
      ((∃ k < s.params.n, 2 < wordN f.inA k) → WritesFree s t d) ∧
      ((∀ k < s.params.n, wordN f.inA k ≤ 2) → s.params.family = .fw →
        Writes s t d fun k => BitVec.ofInt 16 (tritQ s.params (wordN f.inA k))) ∧
      ((∀ k < s.params.n, wordN f.inA k ≤ 2) → s.params.family = .bi →
        ∃ B : ℕ → ℤ, (∀ k < s.params.n, 0 ≤ B k ∧ B k ≤ 2) ∧ B (s.params.n - 1) = 0 ∧
          RingEq s.params.n 3 .sPhi (cyc s.params.n xMinusOne B) (fun k => (wordN f.inA k : ℤ)) ∧
          Writes s t d fun k => BitVec.ofInt 16 <|
            (tritQ s.params (B ((k + s.params.n - 1) % s.params.n)) - tritQ s.params (B k)) % s.params.q)

/-- R157: for LOGQ ≥ 3 and m in T3, RQTOS3(LIFT(m)) is m reduced mod (3, Φ_N), in both families. -/
def Obligations.LiftThenReduceRecoversMessage : Prop :=
  ∀ (p : Params) (m : Poly), p.wf = true → 3 ≤ p.logq → inT3 p.n m = true →
    ∃ l, liftFn p m = some l ∧ rqToS3 p l = phi p.n 3 m

/-! ## Packing -/

/-- R170, R171: PACKQ completes when its region lies in BUF; bit 7 − t of byte b of the region is stream position 8·b + t:
a bit of the coefficient it falls in, most significant first, or 0 in the padding. -/
def Obligations.PackqWritesStream : Prop :=
  ∀ (s : State) (f : Flight) (a : SlotIx), s.flight = some f →
    f.boff0.toNat + s.params.packqBytes ≤ s.params.bufBytes →
    ∃ t, exec (.packq a) s = .next t ∧ Completed t .ok ∧
      ∀ b < s.params.packqBytes, ∃ y : Byte, t.byteAt (f.boff0.toNat + b) = some y ∧
        ∀ j < 8, y.getLsbD (7 - j) =
          if 8 * b + j < s.params.logq * (s.params.n - 1) then
            (wordN f.inA ((8 * b + j) / s.params.logq)).testBit (s.params.logq - 1 - (8 * b + j) % s.params.logq)
          else false

/-- R172: UNPACKQ completes; coefficient k ≤ N − 2 is below Q and has the stream's bits, most significant first, and the last
one makes the sum 0 mod Q (CONV = 0) or is 0 (CONV = 1). -/
def Obligations.UnpackqReadsStream : Prop :=
  ∀ (s : State) (f : Flight) (d : SlotIx) (last : LastCoeff), s.params.wf = true → s.flight = some f → d.toNat < 8 →
    ∃ (t : State) (c : ℕ → Word), exec (.unpackq d last) s = .next t ∧ Completed t .ok ∧ Writes s t d c ∧
      (∀ k < s.params.n, (c k).toNat < s.params.q) ∧
      (∀ k < s.params.n - 1, ∀ j < s.params.logq, (c k).getLsbD (s.params.logq - 1 - j) =
        (byteN f.in0 ((k * s.params.logq + j) / 8)).testBit (7 - (k * s.params.logq + j) % 8)) ∧
      (last = .sumZero → (∑ k ∈ Finset.range s.params.n, (c k).toNat) % s.params.q = 0) ∧
      (last = .zero → c (s.params.n - 1) = 0)

/-- R174, R175: PACK3 completes when its region lies in BUF; byte b is Σ tt[5b + j]·3^j, with tt[k] = 0 above N − 2, and a free
value if one of those words is outside T3. -/
def Obligations.Pack3WritesBase3 : Prop :=
  ∀ (s : State) (f : Flight) (a : SlotIx), s.flight = some f →
    f.boff0.toNat + s.params.pack3Bytes ≤ s.params.bufBytes →
    let tt : ℕ → ℕ := fun k => if k + 1 < s.params.n then wordN f.inA k else 0
    ∃ t, exec (.pack3 a) s = .next t ∧ Completed t .ok ∧
      ∀ b < s.params.pack3Bytes, t.byteAt (f.boff0.toNat + b) = some
        (if ∀ j < 5, tt (5 * b + j) ≤ 2 then BitVec.ofNat 8 (∑ j ∈ Finset.range 5, tt (5 * b + j) * 3 ^ j)
          else Config.freeByte (s.draws + b))

/-- R176: UNPACK3 completes; coefficient k ≤ N − 2 is digit k mod 5 of byte ⌊k/5⌋ for every byte value, and the last is 0. -/
def Obligations.Unpack3ReadsBase3 : Prop :=
  ∀ (s : State) (f : Flight) (d : SlotIx), s.flight = some f → d.toNat < 8 →
    ∃ t, exec (.unpack3 d) s = .next t ∧ Completed t .ok ∧
      Writes s t d fun k => if k + 1 = s.params.n then 0 else BitVec.ofNat 16 (byteN f.in0 (k / 5) / 3 ^ (k % 5) % 3)

/-- R173: the three round trips of mod-Q packing. -/
def Obligations.PackqRoundTrips : Prop :=
  ∀ p : Params, p.wf = true →
    (∀ c : Poly, (∀ k < p.n, 0 ≤ coeff c k ∧ coeff c k < p.q) → (∑ k ∈ Finset.range p.n, coeff c k) % p.q = 0 →
      ∀ k < p.n, coeff (unpackqFn p .sumZero (packqFn p c)) k = coeff c k) ∧
    (∀ c : Poly, (∀ k < p.n, 0 ≤ coeff c k ∧ coeff c k < p.q) → coeff c (p.n - 1) = 0 →
      ∀ k < p.n, coeff (unpackqFn p .zero (packqFn p c)) k = coeff c k) ∧
    ∀ (bs : List Byte) (last : LastCoeff), bs.length = p.packqBytes →
      (packqFn p (unpackqFn p last bs)).length = p.packqBytes ∧
      ∀ b < p.packqBytes, byteN (packqFn p (unpackqFn p last bs)) b =
        if b + 1 = p.packqBytes then byteN bs b / 2 ^ p.padBits * 2 ^ p.padBits else byteN bs b

/-- R177: the two round trips of trit packing. -/
def Obligations.Pack3RoundTrips : Prop :=
  ∀ p : Params, p.wf = true →
    (∀ c : Poly, inT3 p.n c = true → coeff c (p.n - 1) = 0 →
      ∃ bs : List Byte, pack3Fn p (c.map some) = bs.map some ∧ ∀ k < p.n, coeff (unpack3Fn p bs) k = coeff c k) ∧
    ∀ bs : List Byte, bs.length = p.pack3Bytes → (∀ b < p.pack3Bytes, byteN bs b ≤ 242) →
      byteN bs (p.pack3Bytes - 1) < 3 ^ (p.n - 1 - 5 * (p.pack3Bytes - 1)) →
      pack3Fn p ((unpack3Fn p bs).map some) = bs.map some

/-! ## Samplers -/

/-- R190, R191: SAMPIID completes with the draws of the scan and 0 at index N − 1, or, when the scan makes fewer than N − 1,
with only free values and ERR = SAMPLE_EXHAUSTED. -/
def Obligations.SampiidWritesScan : Prop :=
  ∀ (s : State) (f : Flight) (d : SlotIx), s.flight = some f → d.toNat < 8 →
    let c := scan s.params f.in0
    ∃ t, exec (.sampiid d) s = .next t ∧
      (s.params.n - 1 ≤ c.length → Completed t .ok ∧
        Writes s t d fun k => if k + 1 = s.params.n then 0 else BitVec.ofNat 16 (c.getD k 0)) ∧
      (c.length < s.params.n - 1 → Completed t .sampleExhausted ∧ WritesFree s t d)

/-- R192 to R196: SAMPFW completes. Where the index draws of R193 are made from the words of R192, P[D] is the shuffle of the
sorted template by them, with 0 at index N − 1; where they cannot be made, only free values, with ERR = SAMPLE_EXHAUSTED. -/
def Obligations.SampfwWritesShuffle : Prop :=
  ∀ (s : State) (f : Flight) (d : SlotIx), s.params.wf = true → s.flight = some f → d.toNat < 8 →
    ∃ t, exec (.sampfw d) s = .next t ∧
      (∀ js, IsDraws s.params.n (wordsOf s.params f.in0) js → Completed t .ok ∧
        Writes s t d fun k => if k + 1 = s.params.n then 0 else BitVec.ofInt 16 ((shuffle s.params js).getD k 0)) ∧
      ((¬ ∃ js, IsDraws s.params.n (wordsOf s.params f.in0) js) → Completed t .sampleExhausted ∧ WritesFree s t d)

/-- R193: the index draws of the model are those of the rule: L = N − 1 numbers with j[i] in [0, i], each a draw word cut to the
bits of i, taken in the order of the words, a rejected word being spent; and there are none exactly when the words run out
before index 1 is drawn. -/
def Obligations.IndexDrawsInRange : Prop :=
  ∀ (p : Params) (words : List ℕ), p.wf = true →
    (∀ js, indexDraws p words = some js ↔ IsDraws p.n words js) ∧
    (indexDraws p words = none ↔ RunsOut p.n words)

/-- R196: the counter pass of R194 and the template shuffle agree for every draw array. -/
def Obligations.CounterPassIsShuffle : Prop :=
  ∀ (p : Params) (js : List ℕ), p.wf = true → js.length = p.n - 1 → (∀ i < p.n - 1, js.getD i 0 ≤ i) →
    counterPass p js = shuffle p js

/-- R197: a SAMPFW output has WEIGHT/2 ones and WEIGHT/2 twos among indices 0 to N − 2, zeros elsewhere, 0 at N − 1. -/
def Obligations.SampfwHasFixedWeight : Prop :=
  ∀ (p : Params) (bytes : List Byte) (c : Poly), p.wf = true → sampFwFn p bytes = some c →
    countOf (p.n - 1) c 1 = p.weight / 2 ∧ countOf (p.n - 1) c 2 = p.weight / 2 ∧
    countOf (p.n - 1) c 0 = p.n - 1 - p.weight ∧ coeff c (p.n - 1) = 0

/-- R198: SAMPBI completes. Where the scan of SAMPIID exhausts, so does it. Otherwise, for the sample s of SAMPIID and its
correlation C, the sum of the products of adjacent signed trits, its output has a correlation that is not negative, and is s
when C is not negative, and else s with the trits 1 and 2 exchanged at every even index. -/
def Obligations.SampbiFixesSign : Prop :=
  ∀ (s : State) (f : Flight) (d : SlotIx), s.params.wf = true → s.flight = some f → d.toNat < 8 →
    ∃ t, exec (.sampbi d) s = .next t ∧
      (iidSample s.params f.in0 = none → Completed t .sampleExhausted ∧ WritesFree s t d) ∧
      ∀ c, iidSample s.params f.in0 = some c → Completed t .ok ∧
        ∃ o : Poly, Writes s t d (fun k => BitVec.ofInt 16 (coeff o k)) ∧ 0 ≤ corr s.params.n o ∧
          ∀ k < s.params.n, coeff o k = signFix s.params.n c k

/-! ## The OWCPA primitive -/

/-- R221 to R225: KEYPAIR completes when its regions lie in BUF. Where a sampler of the seed exhausts, ERR = SAMPLE_EXHAUSTED
and every byte of pk and sk is free. Otherwise ERR = 0, and for f sampled from the first IID_BYTES of the seed and g from the
bytes after them, sk is pack3(f) ‖ pack3(invf3) ‖ packq(invh) and the bytes of pk that sk does not cover are packq(h), each part
exact when the inverse it depends on exists and free when it does not. RESULT is left as acceptance set it. A seed either
exhausts or gives f and g. -/
def Obligations.KeypairWritesKeys : Prop :=
  ∀ (s : State) (fl : Flight), s.params.wf = true → s.flight = some fl →
    fl.boff1.toNat + s.params.pkBytes ≤ s.params.bufBytes → fl.boff2.toNat + s.params.skBytes ≤ s.params.bufBytes →
    let p := s.params
    let inSk : ℕ → Prop := fun a => fl.boff2.toNat ≤ a ∧ a < fl.boff2.toNat + p.skBytes
    ∃ t, exec .keypair s = .next t ∧ t.fail = s.fail ∧
      (SeedExhausts p fl.in0 ↔ ¬ ∃ f g, IsSampleFG p fl.in0 f g) ∧
      (SeedExhausts p fl.in0 → Completed t .sampleExhausted ∧
        (∀ j < p.pkBytes, HoldsFree t (fl.boff1.toNat + j)) ∧ ∀ j < p.skBytes, HoldsFree t (fl.boff2.toNat + j)) ∧
      ∀ f g, IsSampleFG p fl.in0 f g → Completed t .ok ∧
        (∀ j < p.pack3Bytes, t.byteAt (fl.boff2.toNat + j) = (pack3Fn p (f.map some)).getD j none) ∧
        (∀ v, invPrime p.n 3 .sPhi f = some v →
          ∀ j < p.pack3Bytes, t.byteAt (fl.boff2.toNat + p.pack3Bytes + j) = (pack3Fn p (v.map some)).getD j none) ∧
        (invPrime p.n 3 .sPhi f = none →
          ∀ j < p.pack3Bytes, HoldsFree t (fl.boff2.toNat + p.pack3Bytes + j)) ∧
        (∀ v, invQ p .sPhi (mulqFn p (transformG p g) (z3ToZqPoly p f)) = some v →
          (∀ j < p.packqBytes, t.byteAt (fl.boff2.toNat + 2 * p.pack3Bytes + j) =
            (packqFn p (mulqPhiFn p (mulqFn p v (z3ToZqPoly p f)) (z3ToZqPoly p f)))[j]?) ∧
          ∀ j < p.pkBytes, ¬ inSk (fl.boff1.toNat + j) →
            t.byteAt (fl.boff1.toNat + j) = (packqFn p (mulqFn p (mulqFn p v (transformG p g)) (transformG p g)))[j]?) ∧
        (invQ p .sPhi (mulqFn p (transformG p g) (z3ToZqPoly p f)) = none →
          (∀ j < p.packqBytes, HoldsFree t (fl.boff2.toNat + 2 * p.pack3Bytes + j)) ∧
          ∀ j < p.pkBytes, ¬ inSk (fl.boff1.toNat + j) → HoldsFree t (fl.boff1.toNat + j))

/-- R222: the transform of g is 3·gq in the FW family and 3·(x − 1)·gq in the BI family, in R_Q, for gq = Z3TOZQ(g). -/
def Obligations.TransformOfG : Prop :=
  ∀ (p : Params) (g : Poly), p.wf = true → inT3 p.n g = true → ∀ k < p.n,
    (p.family = .fw → coeff (transformG p g) k = 3 * tritQ p (coeff g k) % p.q) ∧
    (p.family = .bi → coeff (transformG p g) k = 3 * cyc p.n xMinusOne (fun j => tritQ p (coeff g j)) k % p.q)

/-- R226: for the samples f and g of a KEYPAIR seed (R221) whose gf is invertible, h·invh ≡ 1 mod (Q, Φ_N), Σ h ≡ 0 mod Q, and invh, f and invf3 have last
coefficient 0. -/
def Obligations.KeypairKeyProperties : Prop :=
  ∀ (p : Params) (seed : List Byte) (f g v : Poly), p.wf = true → IsSampleFG p seed f g →
    invGF p f g = some v →
    IsInverse p.n p.q .sPhi (coeff (hOf p g v)) (coeff (invHOf p f v)) ∧
    (∑ k ∈ Finset.range p.n, coeff (hOf p g v) k) % p.q = 0 ∧
    coeff (invHOf p f v) (p.n - 1) = 0 ∧ coeff f (p.n - 1) = 0 ∧
    ∀ v3, invF3 p f = some v3 → coeff v3 (p.n - 1) = 0

/-- R227: ENC completes when its region lies in BUF. With m in T3, ct is the packing of r·h + LIFT(m) mod Q, h being the
sum-zero unpacking of pk; with a word of P[B] outside T3, every byte of ct is free. -/
def Obligations.EncWritesCiphertext : Prop :=
  ∀ (s : State) (f : Flight) (a b : SlotIx), s.params.wf = true → s.flight = some f →
    f.boff1.toNat + s.params.ctBytes ≤ s.params.bufBytes →
    let p := s.params
    ∃ t, exec (.enc a b) s = .next t ∧ Completed t .ok ∧ t.fail = s.fail ∧
      ((∃ k < p.n, 2 < wordN f.inB k) →
        ∀ j < p.ctBytes, t.byteAt (f.boff1.toNat + j) = some (Config.freeByte (s.draws + j))) ∧
      ∀ l, liftFn p (values p.n f.inB) = some l → ∃ c : Poly,
        (∀ k < p.n, coeff c k = (cyc p.n (fun i => (wordN f.inA i : ℤ)) (coeff (unpackqFn p .sumZero f.in0)) k + coeff l k) % p.q) ∧
        ∀ j < p.ctBytes, t.byteAt (f.boff1.toNat + j) = (packqFn p c)[j]?

/-- R230 to R237: DEC completes with ERR = 0 when its region lies in BUF, and RESULT.FAIL is 1 exactly when a padding bit of ct
is set, or, in the FW family, the recovered m has unequal counts or not WEIGHT nonzero trits, or a coefficient of the
recovered r other than the last is outside {0, 1, Q − 1}, or its last is not 0. The m bytes are pack3(m); the r bytes are
pack3(ZQTOZ3(r)), exact unless they cover a coefficient outside that set. -/
def Obligations.DecWritesMessageAndFail : Prop :=
  ∀ (s : State) (f : Flight), s.params.wf = true → s.flight = some f →
    f.boff2.toNat + s.params.rmBytes ≤ s.params.bufBytes →
    let p := s.params
    let m := recoverM p f.in0 f.in1
    ∃ t r, exec .dec s = .next t ∧ Completed t .ok ∧ recoverR p f.in0 f.in1 = some r ∧
      (t.fail = true ↔
        (∃ j < p.padBits, (byteN f.in0 (p.ctBytes - 1)).testBit j) ∨
        (p.family = .fw ∧ (countOf p.n m 1 ≠ countOf p.n m 2 ∨ countOf p.n m 1 + countOf p.n m 2 ≠ p.weight)) ∨
        (∃ k < p.n - 1, coeff r k ≠ 0 ∧ coeff r k ≠ 1 ∧ coeff r k ≠ (p.q : ℤ) - 1) ∨
        coeff r (p.n - 1) ≠ 0) ∧
      (∀ j < p.pack3Bytes, t.byteAt (f.boff2.toNat + p.pack3Bytes + j) = (pack3Fn p (m.map some)).getD j none) ∧
      ∀ j < p.pack3Bytes, t.byteAt (f.boff2.toNat + j) = some
        (((pack3Fn p (convertEach p.n (zqToZ3 p) r)).getD j none).getD (Config.freeByte (s.draws + j)))

/-- R229, R230, R232: the m that DEC recovers is in T3 with last coefficient 0, so its lift is never UNSPEC; it is MUL3 of
RQTOS3(c·f) by the second part of the key, and r is (c − LIFT(m))·invh in S_Q, c, f and invh being unpacked from ct and sk. -/
def Obligations.DecRecoversByFormula : Prop :=
  ∀ (p : Params) (ct sk : List Byte), p.wf = true →
    let c := unpackqFn p .sumZero ct
    let f := unpack3Fn p (sk.take p.pack3Bytes)
    let invf3 := unpack3Fn p ((sk.drop p.pack3Bytes).take p.pack3Bytes)
    let invh := unpackqFn p .zero ((sk.drop (2 * p.pack3Bytes)).take p.packqBytes)
    let m := mul3Fn p (rqToS3 p (ofCoeffs p.n fun k => cyc p.n (coeff c) (fun j => tritQ p (coeff f j)) k % p.q)) invf3
    recoverM p ct sk = m ∧ inT3 p.n m = true ∧ coeff m (p.n - 1) = 0 ∧
    ∃ l r, liftFn p m = some l ∧ recoverR p ct sk = some r ∧ IsCanonical p.n p.q .sPhi (coeff r) ∧
      RingEq p.n p.q .sPhi (coeff r) (cyc p.n (fun k => coeff c k - coeff l k) (coeff invh))

/-- R235: check 4 is 1 exactly when r[N−1] is not 0, and it is 0 for every r that DEC recovers. -/
def Obligations.LastCoefficientCheckNeverFires : Prop :=
  ∀ (p : Params) (r : Poly), p.wf = true →
    (chkLast p r = true ↔ coeff r (p.n - 1) ≠ 0) ∧
    ∀ ct sk, recoverR p ct sk = some r → chkLast p r = false

/-! ## Frames -/

/-- The commands that write a slot (R93, "uses" D) leave alone: every other slot, BUF, RESULT and the registers; they draw
free values but change nothing else of the state. -/
def Obligations.SlotCommandsFrame : Prop :=
  ∀ (i : Instr) (d : SlotIx) (s t : State), destSlot i = some d → exec i s = .next t →
    Kept s t ∧ t.fail = s.fail ∧ (∀ a, t.byteAt a = s.byteAt a) ∧
    ∀ e k, e ≠ d ∨ s.params.n ≤ k → t.coeffAt e k = s.coeffAt e k

/-- The commands that write no slot (PACKQ, PACK3, KEYPAIR, ENC, DEC) leave every slot alone, every byte of BUF outside their
output regions at the latched offsets, and the registers; only DEC writes RESULT.FAIL. -/
def Obligations.BufCommandsFrame : Prop :=
  ∀ (i : Instr) (f : Flight) (s t : State), destSlot i = none → s.flight = some f → exec i s = .next t →
    Kept s t ∧ (i ≠ .dec → t.fail = s.fail) ∧ (∀ d k, t.coeffAt d k = s.coeffAt d k) ∧
    ∀ a, (∀ g ∈ regions s.params i, g.out = true → a < (f.boff g.reg).toNat ∨ (f.boff g.reg).toNat + g.len ≤ a) →
      t.byteAt a = s.byteAt a

/-- What no accepted command asks for stops by name: a completion with no command in flight (R41), one whose destination slot
does not exist (R20, R263 check 3), and one, in a build of the spec, with an output region that does not lie in BUF (R32, R263
check 4). -/
def Obligations.UnacceptedFormsStop : Prop :=
  ∀ (i : Instr) (s : State),
    (s.flight = none → exec i s = .fault .engineIdle) ∧
    ∀ f, s.flight = some f →
      (∀ d, destSlot i = some d → 8 ≤ d.toNat → exec i s = .fault .noSuchSlot) ∧
      (s.params.wf = true → (∃ g ∈ regions s.params i, g.out = true ∧ s.params.bufBytes < (f.boff g.reg).toNat + g.len) →
        exec i s = .fault .outsideBuf)

/-- R36, R312: a completion depends on the snapshot and not on the slots and BUF as they stand: two states with the same
build, latched command and draw counter complete alike, and their destinations, ERR and, for DEC, FAIL are the same. -/
def Obligations.CompletionReadsOnlySnapshot : Prop :=
  ∀ (i : Instr) (s₁ s₂ t₁ : State) (f : Flight), s₁.params = s₂.params → s₁.draws = s₂.draws → s₁.flight = some f →
    s₂.flight = some f → exec i s₁ = .next t₁ →
    ∃ t₂, exec i s₂ = .next t₂ ∧ t₂.err = t₁.err ∧ (i = .dec → t₂.fail = t₁.fail) ∧
      (∀ d, destSlot i = some d → ∀ k < s₁.params.n, t₂.coeffAt d k = t₁.coeffAt d k) ∧
      ∀ g ∈ regions s₁.params i, g.out = true → ∀ j < g.len,
        t₂.byteAt ((f.boff g.reg).toNat + j) = t₁.byteAt ((f.boff g.reg).toNat + j)

/-! ## The host's transactions -/

/-- R21 to R28: the identification and parameter registers read as the build's constants, a write to one is ignored, and no
step changes the build. -/
def Obligations.ParameterRegisters : Prop :=
  ∀ s : State, s.params.wf = true →
    (∃ w : Bus, hostRead s 0x000 = .next { s with readData := some w } ∧ w = 0x4E524331) ∧
    (∃ w : Bus, hostRead s 0x004 = .next { s with readData := some w } ∧ w.toNat = s.params.n) ∧
    (∃ w : Bus, hostRead s 0x008 = .next { s with readData := some w } ∧ w.toNat = s.params.logq) ∧
    (∃ w : Bus, hostRead s 0x00C = .next { s with readData := some w } ∧ w.toNat = s.params.weight) ∧
    (∃ w : Bus, hostRead s 0x010 = .next { s with readData := some w } ∧
      w.toNat = 8 * 256 + if s.params.family = .bi then 1 else 0) ∧
    (∃ w : Bus, hostRead s 0x014 = .next { s with readData := some w } ∧ w.toNat = s.params.iidBytes) ∧
    (∃ w : Bus, hostRead s 0x018 = .next { s with readData := some w } ∧ w.toNat = s.params.ftBytes) ∧
    (∃ w : Bus, hostRead s 0x01C = .next { s with readData := some w } ∧ w.toNat = s.params.bufBytes) ∧
    (∀ (off : Offset) (w : Bus), off.toNat < 0x20 → hostWrite s off w = .next s) ∧
    ∀ t, step s = .next t → t.params = s.params

/-- R30: STATUS reads BUSY, DONE, HAZ and ERR at their bits and 0 elsewhere; a write clears DONE and HAZ where it has a 1 and
changes nothing else. -/
def Obligations.StatusReadAndClear : Prop :=
  ∀ s : State,
    (∃ w : Bus, hostRead s 0x024 = .next { s with readData := some w } ∧
      w.toNat = (if s.flight.isSome then 1 else 0) + (if s.done then 2 else 0) + (if s.haz then 4 else 0) +
        256 * (match s.err with
          | .ok => 0 | .illegalOpcode => 1 | .reservedField => 2 | .badSlot => 3 | .badRange => 4 | .sampleExhausted => 5)) ∧
    ∀ w : Bus, hostWrite s 0x024 w =
      .next { s with done := if w.getLsbD 1 then false else s.done, haz := if w.getLsbD 2 then false else s.haz }

/-- R31, R33, R34, R35: CTRL reads IE and takes it from bit 0 of a write without SRST; RESULT reads FAIL and ERRCMD its word,
and both ignore writes; BOFF0 to BOFF2 store all 32 bits of a write, read them back, and a write while a command is in flight
leaves what that command latched. CMD reads 0. -/
def Obligations.ControlRegisters : Prop :=
  ∀ (s : State) (w : Bus),
    hostRead s 0x020 = .next { s with readData := some 0 } ∧
    hostRead s 0x028 = .next { s with readData := some (if s.ie then 1 else 0) } ∧
    (w.getLsbD 1 = false → hostWrite s 0x028 w = .next { s with ie := w.getLsbD 0 }) ∧
    hostRead s 0x02C = .next { s with readData := some (if s.fail then 1 else 0) } ∧ hostWrite s 0x02C w = .next s ∧
    hostRead s 0x03C = .next { s with readData := some s.errcmd } ∧ hostWrite s 0x03C w = .next s ∧
    hostRead s 0x030 = .next { s with readData := some s.boff0 } ∧ hostWrite s 0x030 w = .next { s with boff0 := w } ∧
    hostRead s 0x034 = .next { s with readData := some s.boff1 } ∧ hostWrite s 0x034 w = .next { s with boff1 := w } ∧
    hostRead s 0x038 = .next { s with readData := some s.boff2 } ∧ hostWrite s 0x038 w = .next { s with boff2 := w }

/-- R61 to R63: while BUSY = 0, a write to the window word of P[d][k] stores bits 15:0 there and nothing else; a read of it
returns the word in bits 15:0 with 0 above, and faults where nothing was written (R43); for k ≥ N a read returns 0 and a write
is ignored. -/
def Obligations.SlotWindow : Prop :=
  ∀ (s : State) (d : SlotIx) (k : ℕ) (off : Offset) (w : Bus), s.flight = none → s.params.wf = true →
    d.toNat < 8 → k < 2048 → off.toNat = 0x10000 + d.toNat * 0x2000 + 4 * k →
    (k < s.params.n →
      (∃ t, hostWrite s off w = .next t ∧ t.coeffAt d k = some (BitVec.ofNat 16 w.toNat) ∧ (∀ a, t.byteAt a = s.byteAt a) ∧
        (∀ e j, e ≠ d ∨ j ≠ k → t.coeffAt e j = s.coeffAt e j) ∧ t = { s with slots := t.slots }) ∧
      (∀ x, s.coeffAt d k = some x →
        hostRead s off = .next { s with readData := some (BitVec.ofNat 32 x.toNat) }) ∧
      (s.coeffAt d k = none → hostRead s off = .fault .unwrittenCoeff)) ∧
    (s.params.n ≤ k → hostWrite s off w = .next s ∧ hostRead s off = .next { s with readData := some 0 })

/-- R61, R62, R64: while BUSY = 0, a write to a word of the BUF window stores each byte lane at its byte, lowest lane first, and
nothing else, lanes beyond BUF being ignored; a read returns the bytes, 0 in the lanes beyond BUF, and faults where a byte in
BUF was never written (R43). -/
def Obligations.BufWindow : Prop :=
  ∀ (s : State) (x : ℕ) (off : Offset) (w : Bus), s.flight = none → x < 0x4000 → off.toNat = 0x20000 + 4 * x →
    (∃ t, hostWrite s off w = .next t ∧ (∀ d k, t.coeffAt d k = s.coeffAt d k) ∧ t = { s with buf := t.buf } ∧
      (∀ j < 4, 4 * x + j < s.params.bufBytes → t.byteAt (4 * x + j) = some (BitVec.ofNat 8 (w.toNat / 2 ^ (8 * j)))) ∧
      ∀ a, (a < 4 * x ∨ 4 * x + 4 ≤ a ∨ s.params.bufBytes ≤ a) → t.byteAt a = s.byteAt a) ∧
    ((∀ j < 4, 4 * x + j < s.params.bufBytes → (s.byteAt (4 * x + j)).isSome) →
      ∃ y : Bus, hostRead s off = .next { s with readData := some y } ∧ ∀ j < 4,
        (4 * x + j < s.params.bufBytes → s.byteAt (4 * x + j) = some (BitVec.ofNat 8 (y.toNat / 2 ^ (8 * j)))) ∧
        (s.params.bufBytes ≤ 4 * x + j → y.toNat / 2 ^ (8 * j) % 256 = 0)) ∧
    ((∃ j < 4, 4 * x + j < s.params.bufBytes ∧ s.byteAt (4 * x + j) = none) → hostRead s off = .fault .unwrittenByte)

/-- R61, R62: an access to the unmapped ranges 0x00040 to 0x0FFFF and 0x30000 to 0x3FFFF reads 0 and ignores writes, sets no flag
and raises no error, busy or not. -/
def Obligations.UnmappedReadsZero : Prop :=
  ∀ (s : State) (off : Offset) (w : Bus),
    (0x40 ≤ off.toNat ∧ off.toNat < 0x10000) ∨ 0x30000 ≤ off.toNat →
    hostWrite s off w = .next s ∧ hostRead s off = .next { s with readData := some 0 }

/-- R66: a misaligned or narrower access has no step: it is refused, whatever the state. That one which is both is refused under
the name narrowAccess is the model's choice (log entry 7). -/
def Obligations.MisalignedOrNarrowRefused : Prop :=
  ∀ (s : State) (size : AccessSize) (off : Offset) (w : Bus) (rest : List Event),
    (size ≠ .word →
      step { s with inputs := .read size off :: rest } = .refused .narrowAccess ∧
      step { s with inputs := .write size off w :: rest } = .refused .narrowAccess) ∧
    (size = .word → off.toNat % 4 ≠ 0 →
      step { s with inputs := .read size off :: rest } = .refused .misalignedAccess ∧
      step { s with inputs := .write size off w :: rest } = .refused .misalignedAccess)

/-- R266, R311, U12: while BUSY = 1 an access to the slot or BUF window is a fault of the model; a write to CMD is ignored and
sets HAZ, nothing else changing, whatever the word; any other access to the register block answers a next state in which the
command is still in flight, unless it is a soft reset, and a read changes only the word returned. -/
def Obligations.AccessesWhileBusy : Prop :=
  ∀ (s : State) (f : Flight) (off : Offset) (w : Bus), s.flight = some f →
    (0x10000 ≤ off.toNat ∧ off.toNat < 0x30000 →
      hostRead s off = .fault .windowWhileBusy ∧ hostWrite s off w = .fault .windowWhileBusy) ∧
    hostWrite s 0x20 w = .next { s with haz := true } ∧
    (off.toNat < 0x40 →
      (∃ x, hostRead s off = .next { s with readData := some x }) ∧
      ∃ t, hostWrite s off w = .next t ∧ (t.flight = some f ∨ (off = 0x28 ∧ w.getLsbD 1 = true)))

/-- R38, R270: irq is CTRL.IE AND STATUS.DONE, so a completion or a rejection asserts it exactly when IE is set, and it is 0
while a command accepted in a well-formed machine is in flight. -/
def Obligations.IrqFollowsDone : Prop :=
  ∀ s : State, (s.irq = true ↔ s.ie = true ∧ s.done = true) ∧ (s.Inv → s.flight ≠ none → s.irq = false) ∧
    ∀ i t, exec i s = .next t → t.irq = s.ie

/-! ## Reset -/

/-- R300, R302: a soft reset (a write to CTRL with bit 1 set, whatever its other bits) and a hardware reset put every register
at its reset value and end the command in flight; with no command in flight slots and BUF are unchanged. -/
def Obligations.ResetKeepsMemory : Prop :=
  ∀ (s : State) (w : Bus) (rest : List Event), w.getLsbD 1 = true →
    ∃ t, hostWrite s 0x028 w = .next t ∧
      step { s with inputs := .hardwareReset :: rest } = .next { t with inputs := rest } ∧
      t.flight = none ∧ t.done = false ∧ t.haz = false ∧ t.err = .ok ∧ t.ie = false ∧ t.fail = false ∧ t.boff0 = 0 ∧
      t.boff1 = 0 ∧ t.boff2 = 0 ∧ t.errcmd = 0 ∧ t.params = s.params ∧
      (s.flight = none → SameStorage s t)

/-- R303: a reset with a command in flight leaves in every destination location of that command some value, which for a slot
is the free value of its position, and every other location as it was. That the destination set of DEC is its one output region,
at CUR_BOFF2, and its region at CUR_BOFF1 stays as it was, is the model's reading (log entry 14): R303 names CUR_BOFF1 beside
CUR_BOFF2 for DEC, and R93 and R230 make the region at CUR_BOFF1 an input. -/
def Obligations.AbortSpoilsDestinations : Prop :=
  ∀ (s : State) (f : Flight) (i : Instr) (w : Bus), s.Inv → s.flight = some f → decode f.cmd = .ok i →
    w.getLsbD 1 = true →
    ∃ t, hostWrite s 0x028 w = .next t ∧ t.done = false ∧
      (∀ d, destSlot i = some d → WritesFree s t d) ∧
      (∀ g ∈ regions s.params i, g.out = true → ∀ j < g.len, (t.byteAt ((f.boff g.reg).toNat + j)).isSome) ∧
      (∀ d k, destSlot i ≠ some d ∨ s.params.n ≤ k → t.coeffAt d k = s.coeffAt d k) ∧
      ∀ a, (∀ g ∈ regions s.params i, g.out = true → a < (f.boff g.reg).toNat ∨ (f.boff g.reg).toNat + g.len ≤ a) →
        t.byteAt a = s.byteAt a

/-- R42, R43, R300: a power-on reset puts every register at its reset value, and no slot coefficient and no byte of BUF holds a
value; the same holds of State.reset. -/
def Obligations.PowerOnLeavesNothingWritten : Prop :=
  ∀ (s : State) (rest : List Event),
    (∃ t, step { s with inputs := .powerOnReset :: rest } = .next t ∧ t.flight = none ∧ t.done = false ∧ t.haz = false ∧
      t.err = .ok ∧ t.ie = false ∧ t.fail = false ∧ t.boff0 = 0 ∧ t.boff1 = 0 ∧ t.boff2 = 0 ∧ t.errcmd = 0 ∧
      t.params = s.params ∧ t.irq = false ∧ (∀ d k, t.coeffAt d k = none) ∧ ∀ a, t.byteAt a = none) ∧
    (∀ d k, State.reset.coeffAt d k = none) ∧ (∀ a, State.reset.byteAt a = none) ∧ State.reset.statusWord = 0 ∧
    State.reset.irq = false

/-! ## Invariants of the whole machine -/

/-- The invariant holds after power-on reset of every build of the spec, and at State.reset. -/
def Obligations.InvariantAtReset : Prop :=
  (∀ (p : Params) (inputs : List Event), p.wf = true → (State.powerOn p inputs).Inv) ∧ State.reset.Inv

/-- Every step keeps the invariant: the memories stay in canonical form and inside their bounds (R20, R32), BUSY and DONE never
hold together (R30), ERR and RESULT.FAIL are 0 while a command is in flight, and its latch stays one that the submission checks
pass (R261, R263). -/
def Obligations.StepKeepsInvariant : Prop :=
  ∀ s t : State, s.Inv → step s = .next t → t.Inv

/-- R313: no step changes the build parameters. -/
def Obligations.ParametersNeverChange : Prop :=
  ∀ s t : State, step s = .next t → t.params = s.params

/-- R41, R265, R320: in a state that meets the invariant a command in flight completes at the engine's turn, whatever its
operands: BUSY becomes 0, DONE 1, ERR 0 or, only for a sampler or KEYPAIR, SAMPLE_EXHAUSTED. -/
def Obligations.AcceptedCommandCompletes : Prop :=
  ∀ (s : State) (f : Flight), s.Inv → s.flight = some f →
    ∃ t i, decode f.cmd = .ok i ∧ engineTurn s = .next t ∧ t.flight = none ∧ t.done = true ∧
      (t.err = .ok ∨ (t.err = .sampleExhausted ∧
        ((∃ d, i = .sampiid d ∨ i = .sampfw d ∨ i = .sampbi d) ∨ i = .keypair)))

/-- In a state that meets the invariant the machine stops only where the spec asks a model to stop: a location that nothing has
written (R43), a window access while busy (R311), a misaligned or narrow access (R66). -/
def Obligations.StopsOnlyWhereSpecSays : Prop :=
  ∀ s : State, s.Inv →
    (∀ r, step s = .fault r → r.fromSpec = true) ∧ ∀ r, step s = .refused r → r.fromSpec = true

/-- R67: a host read that answers changes nothing but the word it returns, and leaves the schedule. -/
def Obligations.ReadsHaveNoSideEffect : Prop :=
  ∀ (s t : State) (off : Offset) (rest : List Event), s.inputs = .read .word off :: rest → step s = .next t →
    ∃ w, t = { s with inputs := rest, readData := some w }

/-- R36, R41, R70, R120, R121: from an idle machine whose slots A and B are written, a write of the MULQ word, with PHI = 0 or
1, to CMD followed by the engine's turn leaves in P[D] the product in R_Q, or that product reduced into S_Q, of P[A] and P[B] AS
THEY WERE BEFORE THE WRITE, whether or not D is A or B, and every other slot and BUF as they were. -/
def Obligations.SubmittedProductReachesSlot : Prop :=
  ∀ (s : State) (d a b : SlotIx) (withPhi : Bool) (wa wb : ℕ → Word) (rest : List Event), s.Inv → s.flight = none →
    d.toNat < 8 → a.toNat < 8 → b.toNat < 8 →
    s.inputs = .write .word 0x20 (encode (.mulq d a b withPhi)) :: .engine :: rest →
    (∀ k < s.params.n, s.coeffAt a k = some (wa k)) → (∀ k < s.params.n, s.coeffAt b k = some (wb k)) →
    let q := s.params.q
    let prod : ℕ → ℕ := fun k => (∑ i ∈ Finset.range s.params.n, ∑ j ∈ Finset.range s.params.n,
      if (i + j) % s.params.n = k then (wa i).toNat * (wb j).toNat else 0) % q
    ∃ t : State, Sys2Proof.core.run 2 s = .next t ∧ t.flight = none ∧ t.done = true ∧ t.err = .ok ∧ t.inputs = rest ∧
      (∀ k < s.params.n, t.coeffAt d k = some (BitVec.ofNat 16
        (if withPhi then (prod k + (q - prod (s.params.n - 1))) % q else prod k))) ∧
      (∀ e k, e ≠ d → t.coeffAt e k = s.coeffAt e k) ∧ ∀ x, t.byteAt x = s.byteAt x

end
end

