-- ==== Sys2Proof/Laws/Codec.lean ====
section
/-! SUPPORT. The fields of an assembled command word, so that no proof about the codec unfolds a word. -/

namespace Sys2Proof

variable (mode0 : Bool) (b a d : SlotIx) (op : BitVec 8)

/-- The assembled word as a number: its fields at their places (R90). -/
theorem assemble_toNat :
    (assemble mode0 b a d op).toNat =
      op.toNat + 2 ^ 8 * d.toNat + 2 ^ 12 * a.toNat + 2 ^ 16 * b.toNat + 2 ^ 20 * mode0.toNat := by
  have h1 := op.isLt; have h2 := d.isLt; have h3 := a.isLt; have h4 := b.isLt
  have h5 : mode0.toNat < 2 := Bool.toNat_lt mode0
  simp only [assemble, BitVec.toNat_append, BitVec.toNat_ofNat, BitVec.toNat_ofBool]
  simp only [Nat.shiftLeft_eq, Nat.zero_mod, Nat.zero_mul, Nat.zero_or]
  rw [← Nat.shiftLeft_eq, ← Nat.shiftLeft_eq, ← Nat.shiftLeft_eq, ← Nat.shiftLeft_eq,
    ← Nat.shiftLeft_add_eq_or_of_lt h4, ← Nat.shiftLeft_add_eq_or_of_lt h3, ← Nat.shiftLeft_add_eq_or_of_lt h2,
    ← Nat.shiftLeft_add_eq_or_of_lt h1]
  simp only [Nat.shiftLeft_eq]
  omega

@[simp] theorem fieldOp_assemble : fieldOp (assemble mode0 b a d op) = op := by
  apply BitVec.eq_of_toNat_eq
  have h1 := op.isLt; have h2 := d.isLt; have h3 := a.isLt; have h4 := b.isLt
  simp only [fieldOp, BitVec.extractLsb'_toNat, assemble_toNat, Nat.shiftRight_eq_div_pow]
  omega

@[simp] theorem fieldD_assemble : fieldD (assemble mode0 b a d op) = d := by
  apply BitVec.eq_of_toNat_eq
  have h1 := op.isLt; have h2 := d.isLt; have h3 := a.isLt; have h4 := b.isLt
  simp only [fieldD, BitVec.extractLsb'_toNat, assemble_toNat, Nat.shiftRight_eq_div_pow]
  omega

@[simp] theorem fieldA_assemble : fieldA (assemble mode0 b a d op) = a := by
  apply BitVec.eq_of_toNat_eq
  have h1 := op.isLt; have h2 := d.isLt; have h3 := a.isLt; have h4 := b.isLt
  simp only [fieldA, BitVec.extractLsb'_toNat, assemble_toNat, Nat.shiftRight_eq_div_pow]
  omega

@[simp] theorem fieldB_assemble : fieldB (assemble mode0 b a d op) = b := by
  apply BitVec.eq_of_toNat_eq
  have h1 := op.isLt; have h2 := d.isLt; have h3 := a.isLt; have h4 := b.isLt
  simp only [fieldB, BitVec.extractLsb'_toNat, assemble_toNat, Nat.shiftRight_eq_div_pow]
  omega

@[simp] theorem fieldMode_assemble : (fieldMode (assemble mode0 b a d op)).toNat = mode0.toNat := by
  have h1 := op.isLt; have h2 := d.isLt; have h3 := a.isLt; have h4 := b.isLt
  have h5 : mode0.toNat < 2 := Bool.toNat_lt mode0
  simp only [fieldMode, BitVec.extractLsb'_toNat, assemble_toNat, Nat.shiftRight_eq_div_pow]
  omega

@[simp] theorem fieldRsv_assemble : fieldRsv (assemble mode0 b a d op) = 0 := by
  apply BitVec.eq_of_toNat_eq
  have h1 := op.isLt; have h2 := d.isLt; have h3 := a.isLt; have h4 := b.isLt
  have h5 : mode0.toNat < 2 := Bool.toNat_lt mode0
  simp only [fieldRsv, BitVec.extractLsb'_toNat, assemble_toNat, Nat.shiftRight_eq_div_pow]
  show _ = 0
  omega

@[simp] theorem modeBit_assemble : modeBit (assemble mode0 b a d op) = mode0 := by
  have h1 := op.isLt; have h2 := d.isLt; have h3 := a.isLt; have h4 := b.isLt
  rw [modeBit, BitVec.getLsbD, assemble_toNat, Nat.testBit_eq_decide_div_mod_eq]
  cases mode0 <;> simp <;> omega

end Sys2Proof
end

