-- ==== Sys2Proof/Laws/State.lean ====
section
/-! SUPPORT. The small lemmas of the state: one per field per update, so that no proof unfolds a record update. -/

namespace Sys2Proof.Machine

variable (s : State)

/-! ### setSlot -/

@[simp] theorem State.setSlot_params (d : SlotIx) (m : Memory Word) : (s.setSlot d m).params = s.params := rfl
@[simp] theorem State.setSlot_slots (d : SlotIx) (m : Memory Word) : (s.setSlot d m).slots = s.slots.setIfInBounds d.toNat m := rfl
@[simp] theorem State.setSlot_buf (d : SlotIx) (m : Memory Word) : (s.setSlot d m).buf = s.buf := rfl
@[simp] theorem State.setSlot_done (d : SlotIx) (m : Memory Word) : (s.setSlot d m).done = s.done := rfl
@[simp] theorem State.setSlot_haz (d : SlotIx) (m : Memory Word) : (s.setSlot d m).haz = s.haz := rfl
@[simp] theorem State.setSlot_err (d : SlotIx) (m : Memory Word) : (s.setSlot d m).err = s.err := rfl
@[simp] theorem State.setSlot_ie (d : SlotIx) (m : Memory Word) : (s.setSlot d m).ie = s.ie := rfl
@[simp] theorem State.setSlot_fail (d : SlotIx) (m : Memory Word) : (s.setSlot d m).fail = s.fail := rfl
@[simp] theorem State.setSlot_boff0 (d : SlotIx) (m : Memory Word) : (s.setSlot d m).boff0 = s.boff0 := rfl
@[simp] theorem State.setSlot_boff1 (d : SlotIx) (m : Memory Word) : (s.setSlot d m).boff1 = s.boff1 := rfl
@[simp] theorem State.setSlot_boff2 (d : SlotIx) (m : Memory Word) : (s.setSlot d m).boff2 = s.boff2 := rfl
@[simp] theorem State.setSlot_errcmd (d : SlotIx) (m : Memory Word) : (s.setSlot d m).errcmd = s.errcmd := rfl
@[simp] theorem State.setSlot_flight (d : SlotIx) (m : Memory Word) : (s.setSlot d m).flight = s.flight := rfl
@[simp] theorem State.setSlot_draws (d : SlotIx) (m : Memory Word) : (s.setSlot d m).draws = s.draws := rfl
@[simp] theorem State.setSlot_inputs (d : SlotIx) (m : Memory Word) : (s.setSlot d m).inputs = s.inputs := rfl
@[simp] theorem State.setSlot_readData (d : SlotIx) (m : Memory Word) : (s.setSlot d m).readData = s.readData := rfl

/-! ### writeBuf -/

@[simp] theorem State.writeBuf_params (off : Nat) (bs : List Byte) : (s.writeBuf off bs).params = s.params := rfl
@[simp] theorem State.writeBuf_slots (off : Nat) (bs : List Byte) : (s.writeBuf off bs).slots = s.slots := rfl
@[simp] theorem State.writeBuf_buf (off : Nat) (bs : List Byte) : (s.writeBuf off bs).buf = Memory.writeList s.buf off bs := rfl
@[simp] theorem State.writeBuf_done (off : Nat) (bs : List Byte) : (s.writeBuf off bs).done = s.done := rfl
@[simp] theorem State.writeBuf_haz (off : Nat) (bs : List Byte) : (s.writeBuf off bs).haz = s.haz := rfl
@[simp] theorem State.writeBuf_err (off : Nat) (bs : List Byte) : (s.writeBuf off bs).err = s.err := rfl
@[simp] theorem State.writeBuf_ie (off : Nat) (bs : List Byte) : (s.writeBuf off bs).ie = s.ie := rfl
@[simp] theorem State.writeBuf_fail (off : Nat) (bs : List Byte) : (s.writeBuf off bs).fail = s.fail := rfl
@[simp] theorem State.writeBuf_boff0 (off : Nat) (bs : List Byte) : (s.writeBuf off bs).boff0 = s.boff0 := rfl
@[simp] theorem State.writeBuf_boff1 (off : Nat) (bs : List Byte) : (s.writeBuf off bs).boff1 = s.boff1 := rfl
@[simp] theorem State.writeBuf_boff2 (off : Nat) (bs : List Byte) : (s.writeBuf off bs).boff2 = s.boff2 := rfl
@[simp] theorem State.writeBuf_errcmd (off : Nat) (bs : List Byte) : (s.writeBuf off bs).errcmd = s.errcmd := rfl
@[simp] theorem State.writeBuf_flight (off : Nat) (bs : List Byte) : (s.writeBuf off bs).flight = s.flight := rfl
@[simp] theorem State.writeBuf_draws (off : Nat) (bs : List Byte) : (s.writeBuf off bs).draws = s.draws := rfl
@[simp] theorem State.writeBuf_inputs (off : Nat) (bs : List Byte) : (s.writeBuf off bs).inputs = s.inputs := rfl
@[simp] theorem State.writeBuf_readData (off : Nat) (bs : List Byte) : (s.writeBuf off bs).readData = s.readData := rfl

/-! ### advance -/

@[simp] theorem State.advance_params (n : Nat) : (s.advance n).params = s.params := rfl
@[simp] theorem State.advance_slots (n : Nat) : (s.advance n).slots = s.slots := rfl
@[simp] theorem State.advance_buf (n : Nat) : (s.advance n).buf = s.buf := rfl
@[simp] theorem State.advance_done (n : Nat) : (s.advance n).done = s.done := rfl
@[simp] theorem State.advance_haz (n : Nat) : (s.advance n).haz = s.haz := rfl
@[simp] theorem State.advance_err (n : Nat) : (s.advance n).err = s.err := rfl
@[simp] theorem State.advance_ie (n : Nat) : (s.advance n).ie = s.ie := rfl
@[simp] theorem State.advance_fail (n : Nat) : (s.advance n).fail = s.fail := rfl
@[simp] theorem State.advance_boff0 (n : Nat) : (s.advance n).boff0 = s.boff0 := rfl
@[simp] theorem State.advance_boff1 (n : Nat) : (s.advance n).boff1 = s.boff1 := rfl
@[simp] theorem State.advance_boff2 (n : Nat) : (s.advance n).boff2 = s.boff2 := rfl
@[simp] theorem State.advance_errcmd (n : Nat) : (s.advance n).errcmd = s.errcmd := rfl
@[simp] theorem State.advance_flight (n : Nat) : (s.advance n).flight = s.flight := rfl
@[simp] theorem State.advance_draws (n : Nat) : (s.advance n).draws = s.draws + n := rfl
@[simp] theorem State.advance_inputs (n : Nat) : (s.advance n).inputs = s.inputs := rfl
@[simp] theorem State.advance_readData (n : Nat) : (s.advance n).readData = s.readData := rfl

/-! ### reject -/

@[simp] theorem State.reject_params (w : Bus) (e : ErrCode) : (s.reject w e).params = s.params := rfl
@[simp] theorem State.reject_slots (w : Bus) (e : ErrCode) : (s.reject w e).slots = s.slots := rfl
@[simp] theorem State.reject_buf (w : Bus) (e : ErrCode) : (s.reject w e).buf = s.buf := rfl
@[simp] theorem State.reject_done (w : Bus) (e : ErrCode) : (s.reject w e).done = true := rfl
@[simp] theorem State.reject_haz (w : Bus) (e : ErrCode) : (s.reject w e).haz = s.haz := rfl
@[simp] theorem State.reject_err (w : Bus) (e : ErrCode) : (s.reject w e).err = e := rfl
@[simp] theorem State.reject_ie (w : Bus) (e : ErrCode) : (s.reject w e).ie = s.ie := rfl
@[simp] theorem State.reject_fail (w : Bus) (e : ErrCode) : (s.reject w e).fail = s.fail := rfl
@[simp] theorem State.reject_boff0 (w : Bus) (e : ErrCode) : (s.reject w e).boff0 = s.boff0 := rfl
@[simp] theorem State.reject_boff1 (w : Bus) (e : ErrCode) : (s.reject w e).boff1 = s.boff1 := rfl
@[simp] theorem State.reject_boff2 (w : Bus) (e : ErrCode) : (s.reject w e).boff2 = s.boff2 := rfl
@[simp] theorem State.reject_errcmd (w : Bus) (e : ErrCode) : (s.reject w e).errcmd = w := rfl
@[simp] theorem State.reject_flight (w : Bus) (e : ErrCode) : (s.reject w e).flight = s.flight := rfl
@[simp] theorem State.reject_draws (w : Bus) (e : ErrCode) : (s.reject w e).draws = s.draws := rfl
@[simp] theorem State.reject_inputs (w : Bus) (e : ErrCode) : (s.reject w e).inputs = s.inputs := rfl
@[simp] theorem State.reject_readData (w : Bus) (e : ErrCode) : (s.reject w e).readData = s.readData := rfl

/-! ### accept -/

@[simp] theorem State.accept_params (f : Flight) : (s.accept f).params = s.params := rfl
@[simp] theorem State.accept_slots (f : Flight) : (s.accept f).slots = s.slots := rfl
@[simp] theorem State.accept_buf (f : Flight) : (s.accept f).buf = s.buf := rfl
@[simp] theorem State.accept_done (f : Flight) : (s.accept f).done = false := rfl
@[simp] theorem State.accept_haz (f : Flight) : (s.accept f).haz = s.haz := rfl
@[simp] theorem State.accept_err (f : Flight) : (s.accept f).err = .ok := rfl
@[simp] theorem State.accept_ie (f : Flight) : (s.accept f).ie = s.ie := rfl
@[simp] theorem State.accept_fail (f : Flight) : (s.accept f).fail = false := rfl
@[simp] theorem State.accept_boff0 (f : Flight) : (s.accept f).boff0 = s.boff0 := rfl
@[simp] theorem State.accept_boff1 (f : Flight) : (s.accept f).boff1 = s.boff1 := rfl
@[simp] theorem State.accept_boff2 (f : Flight) : (s.accept f).boff2 = s.boff2 := rfl
@[simp] theorem State.accept_errcmd (f : Flight) : (s.accept f).errcmd = s.errcmd := rfl
@[simp] theorem State.accept_flight (f : Flight) : (s.accept f).flight = some f := rfl
@[simp] theorem State.accept_draws (f : Flight) : (s.accept f).draws = s.draws := rfl
@[simp] theorem State.accept_inputs (f : Flight) : (s.accept f).inputs = s.inputs := rfl
@[simp] theorem State.accept_readData (f : Flight) : (s.accept f).readData = s.readData := rfl

/-! ### retire -/

@[simp] theorem State.retire_params (e : ErrCode) : (s.retire e).params = s.params := rfl
@[simp] theorem State.retire_slots (e : ErrCode) : (s.retire e).slots = s.slots := rfl
@[simp] theorem State.retire_buf (e : ErrCode) : (s.retire e).buf = s.buf := rfl
@[simp] theorem State.retire_done (e : ErrCode) : (s.retire e).done = true := rfl
@[simp] theorem State.retire_haz (e : ErrCode) : (s.retire e).haz = s.haz := rfl
@[simp] theorem State.retire_err (e : ErrCode) : (s.retire e).err = e := rfl
@[simp] theorem State.retire_ie (e : ErrCode) : (s.retire e).ie = s.ie := rfl
@[simp] theorem State.retire_fail (e : ErrCode) : (s.retire e).fail = s.fail := rfl
@[simp] theorem State.retire_boff0 (e : ErrCode) : (s.retire e).boff0 = s.boff0 := rfl
@[simp] theorem State.retire_boff1 (e : ErrCode) : (s.retire e).boff1 = s.boff1 := rfl
@[simp] theorem State.retire_boff2 (e : ErrCode) : (s.retire e).boff2 = s.boff2 := rfl
@[simp] theorem State.retire_errcmd (e : ErrCode) : (s.retire e).errcmd = s.errcmd := rfl
@[simp] theorem State.retire_flight (e : ErrCode) : (s.retire e).flight = none := rfl
@[simp] theorem State.retire_draws (e : ErrCode) : (s.retire e).draws = s.draws := rfl
@[simp] theorem State.retire_inputs (e : ErrCode) : (s.retire e).inputs = s.inputs := rfl
@[simp] theorem State.retire_readData (e : ErrCode) : (s.retire e).readData = s.readData := rfl

/-! ### returns -/

@[simp] theorem State.returns_params (w : Bus) : (s.returns w).params = s.params := rfl
@[simp] theorem State.returns_slots (w : Bus) : (s.returns w).slots = s.slots := rfl
@[simp] theorem State.returns_buf (w : Bus) : (s.returns w).buf = s.buf := rfl
@[simp] theorem State.returns_done (w : Bus) : (s.returns w).done = s.done := rfl
@[simp] theorem State.returns_haz (w : Bus) : (s.returns w).haz = s.haz := rfl
@[simp] theorem State.returns_err (w : Bus) : (s.returns w).err = s.err := rfl
@[simp] theorem State.returns_ie (w : Bus) : (s.returns w).ie = s.ie := rfl
@[simp] theorem State.returns_fail (w : Bus) : (s.returns w).fail = s.fail := rfl
@[simp] theorem State.returns_boff0 (w : Bus) : (s.returns w).boff0 = s.boff0 := rfl
@[simp] theorem State.returns_boff1 (w : Bus) : (s.returns w).boff1 = s.boff1 := rfl
@[simp] theorem State.returns_boff2 (w : Bus) : (s.returns w).boff2 = s.boff2 := rfl
@[simp] theorem State.returns_errcmd (w : Bus) : (s.returns w).errcmd = s.errcmd := rfl
@[simp] theorem State.returns_flight (w : Bus) : (s.returns w).flight = s.flight := rfl
@[simp] theorem State.returns_draws (w : Bus) : (s.returns w).draws = s.draws := rfl
@[simp] theorem State.returns_inputs (w : Bus) : (s.returns w).inputs = s.inputs := rfl
@[simp] theorem State.returns_readData (w : Bus) : (s.returns w).readData = some w := rfl

/-! ### writeSlot: everything but the slots -/

@[simp] theorem State.writeSlot_params (d : SlotIx) (ws : List Word) : (s.writeSlot d ws).params = s.params := by
  unfold State.writeSlot; split <;> rfl
@[simp] theorem State.writeSlot_buf (d : SlotIx) (ws : List Word) : (s.writeSlot d ws).buf = s.buf := by
  unfold State.writeSlot; split <;> rfl
@[simp] theorem State.writeSlot_done (d : SlotIx) (ws : List Word) : (s.writeSlot d ws).done = s.done := by
  unfold State.writeSlot; split <;> rfl
@[simp] theorem State.writeSlot_haz (d : SlotIx) (ws : List Word) : (s.writeSlot d ws).haz = s.haz := by
  unfold State.writeSlot; split <;> rfl
@[simp] theorem State.writeSlot_err (d : SlotIx) (ws : List Word) : (s.writeSlot d ws).err = s.err := by
  unfold State.writeSlot; split <;> rfl
@[simp] theorem State.writeSlot_ie (d : SlotIx) (ws : List Word) : (s.writeSlot d ws).ie = s.ie := by
  unfold State.writeSlot; split <;> rfl
@[simp] theorem State.writeSlot_fail (d : SlotIx) (ws : List Word) : (s.writeSlot d ws).fail = s.fail := by
  unfold State.writeSlot; split <;> rfl
@[simp] theorem State.writeSlot_boff0 (d : SlotIx) (ws : List Word) : (s.writeSlot d ws).boff0 = s.boff0 := by
  unfold State.writeSlot; split <;> rfl
@[simp] theorem State.writeSlot_boff1 (d : SlotIx) (ws : List Word) : (s.writeSlot d ws).boff1 = s.boff1 := by
  unfold State.writeSlot; split <;> rfl
@[simp] theorem State.writeSlot_boff2 (d : SlotIx) (ws : List Word) : (s.writeSlot d ws).boff2 = s.boff2 := by
  unfold State.writeSlot; split <;> rfl
@[simp] theorem State.writeSlot_errcmd (d : SlotIx) (ws : List Word) : (s.writeSlot d ws).errcmd = s.errcmd := by
  unfold State.writeSlot; split <;> rfl
@[simp] theorem State.writeSlot_flight (d : SlotIx) (ws : List Word) : (s.writeSlot d ws).flight = s.flight := by
  unfold State.writeSlot; split <;> rfl
@[simp] theorem State.writeSlot_draws (d : SlotIx) (ws : List Word) : (s.writeSlot d ws).draws = s.draws := by
  unfold State.writeSlot; split <;> rfl
@[simp] theorem State.writeSlot_inputs (d : SlotIx) (ws : List Word) : (s.writeSlot d ws).inputs = s.inputs := by
  unfold State.writeSlot; split <;> rfl
@[simp] theorem State.writeSlot_readData (d : SlotIx) (ws : List Word) : (s.writeSlot d ws).readData = s.readData := by
  unfold State.writeSlot; split <;> rfl

/-! ### writeCoeff: everything but the slots -/

@[simp] theorem State.writeCoeff_params (d : SlotIx) (k : Nat) (w : Word) : (s.writeCoeff d k w).params = s.params := by
  unfold State.writeCoeff; split <;> rfl
@[simp] theorem State.writeCoeff_buf (d : SlotIx) (k : Nat) (w : Word) : (s.writeCoeff d k w).buf = s.buf := by
  unfold State.writeCoeff; split <;> rfl
@[simp] theorem State.writeCoeff_done (d : SlotIx) (k : Nat) (w : Word) : (s.writeCoeff d k w).done = s.done := by
  unfold State.writeCoeff; split <;> rfl
@[simp] theorem State.writeCoeff_haz (d : SlotIx) (k : Nat) (w : Word) : (s.writeCoeff d k w).haz = s.haz := by
  unfold State.writeCoeff; split <;> rfl
@[simp] theorem State.writeCoeff_err (d : SlotIx) (k : Nat) (w : Word) : (s.writeCoeff d k w).err = s.err := by
  unfold State.writeCoeff; split <;> rfl
@[simp] theorem State.writeCoeff_ie (d : SlotIx) (k : Nat) (w : Word) : (s.writeCoeff d k w).ie = s.ie := by
  unfold State.writeCoeff; split <;> rfl
@[simp] theorem State.writeCoeff_fail (d : SlotIx) (k : Nat) (w : Word) : (s.writeCoeff d k w).fail = s.fail := by
  unfold State.writeCoeff; split <;> rfl
@[simp] theorem State.writeCoeff_boff0 (d : SlotIx) (k : Nat) (w : Word) : (s.writeCoeff d k w).boff0 = s.boff0 := by
  unfold State.writeCoeff; split <;> rfl
@[simp] theorem State.writeCoeff_boff1 (d : SlotIx) (k : Nat) (w : Word) : (s.writeCoeff d k w).boff1 = s.boff1 := by
  unfold State.writeCoeff; split <;> rfl
@[simp] theorem State.writeCoeff_boff2 (d : SlotIx) (k : Nat) (w : Word) : (s.writeCoeff d k w).boff2 = s.boff2 := by
  unfold State.writeCoeff; split <;> rfl
@[simp] theorem State.writeCoeff_errcmd (d : SlotIx) (k : Nat) (w : Word) : (s.writeCoeff d k w).errcmd = s.errcmd := by
  unfold State.writeCoeff; split <;> rfl
@[simp] theorem State.writeCoeff_flight (d : SlotIx) (k : Nat) (w : Word) : (s.writeCoeff d k w).flight = s.flight := by
  unfold State.writeCoeff; split <;> rfl
@[simp] theorem State.writeCoeff_draws (d : SlotIx) (k : Nat) (w : Word) : (s.writeCoeff d k w).draws = s.draws := by
  unfold State.writeCoeff; split <;> rfl
@[simp] theorem State.writeCoeff_inputs (d : SlotIx) (k : Nat) (w : Word) : (s.writeCoeff d k w).inputs = s.inputs := by
  unfold State.writeCoeff; split <;> rfl
@[simp] theorem State.writeCoeff_readData (d : SlotIx) (k : Nat) (w : Word) : (s.writeCoeff d k w).readData = s.readData := by
  unfold State.writeCoeff; split <;> rfl

/-! ### writeSlotDrawn -/

@[simp] theorem State.writeSlotDrawn_params (d : SlotIx) (ws : List (Option Word)) : (s.writeSlotDrawn d ws).params = s.params := by
  simp [State.writeSlotDrawn]
@[simp] theorem State.writeSlotDrawn_slots (d : SlotIx) (ws : List (Option Word)) : (s.writeSlotDrawn d ws).slots = (s.writeSlot d (drawnWords s.draws ws)).slots := by
  simp [State.writeSlotDrawn]
@[simp] theorem State.writeSlotDrawn_buf (d : SlotIx) (ws : List (Option Word)) : (s.writeSlotDrawn d ws).buf = s.buf := by
  simp [State.writeSlotDrawn]
@[simp] theorem State.writeSlotDrawn_done (d : SlotIx) (ws : List (Option Word)) : (s.writeSlotDrawn d ws).done = s.done := by
  simp [State.writeSlotDrawn]
@[simp] theorem State.writeSlotDrawn_haz (d : SlotIx) (ws : List (Option Word)) : (s.writeSlotDrawn d ws).haz = s.haz := by
  simp [State.writeSlotDrawn]
@[simp] theorem State.writeSlotDrawn_err (d : SlotIx) (ws : List (Option Word)) : (s.writeSlotDrawn d ws).err = s.err := by
  simp [State.writeSlotDrawn]
@[simp] theorem State.writeSlotDrawn_ie (d : SlotIx) (ws : List (Option Word)) : (s.writeSlotDrawn d ws).ie = s.ie := by
  simp [State.writeSlotDrawn]
@[simp] theorem State.writeSlotDrawn_fail (d : SlotIx) (ws : List (Option Word)) : (s.writeSlotDrawn d ws).fail = s.fail := by
  simp [State.writeSlotDrawn]
@[simp] theorem State.writeSlotDrawn_boff0 (d : SlotIx) (ws : List (Option Word)) : (s.writeSlotDrawn d ws).boff0 = s.boff0 := by
  simp [State.writeSlotDrawn]
@[simp] theorem State.writeSlotDrawn_boff1 (d : SlotIx) (ws : List (Option Word)) : (s.writeSlotDrawn d ws).boff1 = s.boff1 := by
  simp [State.writeSlotDrawn]
@[simp] theorem State.writeSlotDrawn_boff2 (d : SlotIx) (ws : List (Option Word)) : (s.writeSlotDrawn d ws).boff2 = s.boff2 := by
  simp [State.writeSlotDrawn]
@[simp] theorem State.writeSlotDrawn_errcmd (d : SlotIx) (ws : List (Option Word)) : (s.writeSlotDrawn d ws).errcmd = s.errcmd := by
  simp [State.writeSlotDrawn]
@[simp] theorem State.writeSlotDrawn_flight (d : SlotIx) (ws : List (Option Word)) : (s.writeSlotDrawn d ws).flight = s.flight := by
  simp [State.writeSlotDrawn]
@[simp] theorem State.writeSlotDrawn_draws (d : SlotIx) (ws : List (Option Word)) : (s.writeSlotDrawn d ws).draws = s.draws + ws.length := by
  simp [State.writeSlotDrawn]
@[simp] theorem State.writeSlotDrawn_inputs (d : SlotIx) (ws : List (Option Word)) : (s.writeSlotDrawn d ws).inputs = s.inputs := by
  simp [State.writeSlotDrawn]
@[simp] theorem State.writeSlotDrawn_readData (d : SlotIx) (ws : List (Option Word)) : (s.writeSlotDrawn d ws).readData = s.readData := by
  simp [State.writeSlotDrawn]

/-! ### writeBufDrawn -/

@[simp] theorem State.writeBufDrawn_params (off : Nat) (bs : List (Option Byte)) : (s.writeBufDrawn off bs).params = s.params := by
  simp [State.writeBufDrawn]
@[simp] theorem State.writeBufDrawn_slots (off : Nat) (bs : List (Option Byte)) : (s.writeBufDrawn off bs).slots = s.slots := by
  simp [State.writeBufDrawn]
@[simp] theorem State.writeBufDrawn_buf (off : Nat) (bs : List (Option Byte)) : (s.writeBufDrawn off bs).buf = Memory.writeList s.buf off (drawnBytes s.draws bs) := by
  simp [State.writeBufDrawn]
@[simp] theorem State.writeBufDrawn_done (off : Nat) (bs : List (Option Byte)) : (s.writeBufDrawn off bs).done = s.done := by
  simp [State.writeBufDrawn]
@[simp] theorem State.writeBufDrawn_haz (off : Nat) (bs : List (Option Byte)) : (s.writeBufDrawn off bs).haz = s.haz := by
  simp [State.writeBufDrawn]
@[simp] theorem State.writeBufDrawn_err (off : Nat) (bs : List (Option Byte)) : (s.writeBufDrawn off bs).err = s.err := by
  simp [State.writeBufDrawn]
@[simp] theorem State.writeBufDrawn_ie (off : Nat) (bs : List (Option Byte)) : (s.writeBufDrawn off bs).ie = s.ie := by
  simp [State.writeBufDrawn]
@[simp] theorem State.writeBufDrawn_fail (off : Nat) (bs : List (Option Byte)) : (s.writeBufDrawn off bs).fail = s.fail := by
  simp [State.writeBufDrawn]
@[simp] theorem State.writeBufDrawn_boff0 (off : Nat) (bs : List (Option Byte)) : (s.writeBufDrawn off bs).boff0 = s.boff0 := by
  simp [State.writeBufDrawn]
@[simp] theorem State.writeBufDrawn_boff1 (off : Nat) (bs : List (Option Byte)) : (s.writeBufDrawn off bs).boff1 = s.boff1 := by
  simp [State.writeBufDrawn]
@[simp] theorem State.writeBufDrawn_boff2 (off : Nat) (bs : List (Option Byte)) : (s.writeBufDrawn off bs).boff2 = s.boff2 := by
  simp [State.writeBufDrawn]
@[simp] theorem State.writeBufDrawn_errcmd (off : Nat) (bs : List (Option Byte)) : (s.writeBufDrawn off bs).errcmd = s.errcmd := by
  simp [State.writeBufDrawn]
@[simp] theorem State.writeBufDrawn_flight (off : Nat) (bs : List (Option Byte)) : (s.writeBufDrawn off bs).flight = s.flight := by
  simp [State.writeBufDrawn]
@[simp] theorem State.writeBufDrawn_draws (off : Nat) (bs : List (Option Byte)) : (s.writeBufDrawn off bs).draws = s.draws + bs.length := by
  simp [State.writeBufDrawn]
@[simp] theorem State.writeBufDrawn_inputs (off : Nat) (bs : List (Option Byte)) : (s.writeBufDrawn off bs).inputs = s.inputs := by
  simp [State.writeBufDrawn]
@[simp] theorem State.writeBufDrawn_readData (off : Nat) (bs : List (Option Byte)) : (s.writeBufDrawn off bs).readData = s.readData := by
  simp [State.writeBufDrawn]

end Sys2Proof.Machine
end

