-- ==== Sys2Proof/Laws/Memory.lean ====
section
/-! SUPPORT. The laws of memories: a read after a write, the canonical form, and reads and writes of consecutive
indices. -/

namespace Sys2Proof.Machine

variable {α : Type}

@[simp] theorem Memory.read_nil (k : Nat) : Memory.read ([] : Memory α) k = none := rfl

@[simp] theorem Memory.writeList_nil (m : Memory α) (k : Nat) : Memory.writeList m k [] = m := rfl

theorem Memory.wf_nil : Memory.wf ([] : Memory α) := List.Pairwise.nil

theorem Memory.read_cons (i : Nat) (v : α) (rest : Memory α) (k : Nat) :
    Memory.read ((i, v) :: rest) k = if k = i then some v else Memory.read rest k := rfl

/-- A read after a write: the value written at that index, every other index as before. -/
theorem Memory.read_write (m : Memory α) (k : Nat) (x : α) (a : Nat) :
    Memory.read (Memory.write m k x) a = if a = k then some x else Memory.read m a := by
  induction m with
  | nil => rfl
  | cons hd rest ih =>
    obtain ⟨i, v⟩ := hd
    by_cases h1 : k < i
    · simp [Memory.write, h1, Memory.read_cons]
    · by_cases h2 : k = i
      · subst h2
        simp only [Memory.write, lt_irrefl, if_false, if_true, Memory.read_cons]
        split <;> simp_all
      · simp only [Memory.write, h1, h2, if_false, Memory.read_cons, ih]
        by_cases h3 : a = i
        · have : a ≠ k := by omega
          simp [h3]; intro h; omega
        · simp [h3]

/-- The indices of a memory after a write are the old ones and the written one. -/
theorem Memory.mem_write {m : Memory α} {k : Nat} {x : α} {e : Nat × α} (h : e ∈ Memory.write m k x) :
    e = (k, x) ∨ e ∈ m := by
  induction m with
  | nil => simp [Memory.write] at h; exact .inl h
  | cons hd rest ih =>
    obtain ⟨i, v⟩ := hd
    unfold Memory.write at h
    split at h
    · simpa using h
    · split at h
      · rcases List.mem_cons.1 h with h | h
        · exact .inl h
        · exact .inr (List.mem_cons_of_mem _ h)
      · rcases List.mem_cons.1 h with h | h
        · exact .inr (by simp [h])
        · exact (ih h).imp id (List.mem_cons_of_mem _)

/-- A write keeps the canonical form. -/
theorem Memory.write_wf {m : Memory α} (h : Memory.wf m) (k : Nat) (x : α) : Memory.wf (Memory.write m k x) := by
  induction m with
  | nil => simp [Memory.write, Memory.wf]
  | cons hd rest ih =>
    obtain ⟨i, v⟩ := hd
    obtain ⟨hlt, hrest⟩ := List.pairwise_cons.1 h
    unfold Memory.write
    split
    · rename_i hk
      refine List.pairwise_cons.2 ⟨fun e he => ?_, h⟩
      rcases List.mem_cons.1 he with rfl | he
      · exact hk
      · exact hk.trans (hlt e he)
    · split
      · rename_i hk
        subst hk
        exact List.pairwise_cons.2 ⟨hlt, hrest⟩
      · refine List.pairwise_cons.2 ⟨fun e he => ?_, ih hrest⟩
        rcases Memory.mem_write he with rfl | he
        · show i < k
          omega
        · exact hlt e he

/-- A write inside a bound keeps the canonical form below that bound. -/
theorem Memory.write_wfBelow {m : Memory α} {bound k : Nat} (h : Memory.wfBelow m bound) (hk : k < bound) (x : α) :
    Memory.wfBelow (Memory.write m k x) bound :=
  ⟨Memory.write_wf h.1 k x, fun e he => by
    rcases Memory.mem_write he with rfl | he
    · exact hk
    · exact h.2 e he⟩

/-- A read after a write of consecutive values. -/
theorem Memory.read_writeList (m : Memory α) (k : Nat) (xs : List α) (a : Nat) :
    Memory.read (Memory.writeList m k xs) a = if k ≤ a ∧ a < k + xs.length then xs[a - k]? else Memory.read m a := by
  induction xs generalizing m k with
  | nil => simp
  | cons x rest ih =>
    simp only [Memory.writeList, ih, Memory.read_write, List.length_cons]
    by_cases h : a = k
    · subst h; simp
    · by_cases h2 : k + 1 ≤ a ∧ a < k + 1 + rest.length
      · have h3 : k ≤ a ∧ a < k + (rest.length + 1) := by omega
        have h4 : a - k = (a - (k + 1)) + 1 := by omega
        rw [if_pos h2, if_pos h3, h4, List.getElem?_cons_succ]
      · have h3 : ¬ (k ≤ a ∧ a < k + (rest.length + 1)) := by omega
        rw [if_neg h2, if_neg h3, if_neg h]

/-- A write of consecutive values inside a bound keeps the canonical form below that bound. -/
theorem Memory.writeList_wfBelow {m : Memory α} {bound : Nat} (h : Memory.wfBelow m bound) (k : Nat) (xs : List α)
    (hk : k + xs.length ≤ bound) : Memory.wfBelow (Memory.writeList m k xs) bound := by
  induction xs generalizing m k with
  | nil => exact h
  | cons x rest ih =>
    simp only [List.length_cons] at hk
    exact ih (Memory.write_wfBelow h (by omega) x) (k + 1) (by omega)

/-- A write of consecutive values keeps the canonical form. -/
theorem Memory.writeList_wf {m : Memory α} (h : Memory.wf m) (k : Nat) (xs : List α) :
    Memory.wf (Memory.writeList m k xs) := by
  induction xs generalizing m k with
  | nil => exact h
  | cons x rest ih => exact ih (Memory.write_wf h k x) (k + 1)

/-- What reading consecutive indices answers: the values at all of them. -/
theorem Memory.readList_eq_some {m : Memory α} {k n : Nat} {xs : List α} :
    Memory.readList m k n = some xs ↔ xs.length = n ∧ ∀ i < n, Memory.read m (k + i) = xs[i]? := by
  induction n generalizing k xs with
  | zero =>
    simp only [Memory.readList, Option.some.injEq, Nat.not_lt_zero, false_imp_iff, implies_true, and_true]
    constructor
    · rintro rfl; rfl
    · intro h; exact (List.eq_nil_of_length_eq_zero h).symm
  | succ n ih =>
    simp only [Memory.readList]
    constructor
    · intro h
      split at h
      · rename_i x ys hx hys
        obtain ⟨hl, hr⟩ := ih.1 hys
        cases h
        refine ⟨by simp [hl], fun i hi => ?_⟩
        cases i with
        | zero => simpa using hx
        | succ j =>
          have := hr j (by omega)
          rw [List.getElem?_cons_succ, ← this]
          congr 1; omega
      · cases h
    · rintro ⟨hl, hr⟩
      cases xs with
      | nil => simp at hl
      | cons x ys =>
        have hx : Memory.read m k = some x := by simpa using hr 0 (by omega)
        have hys : Memory.readList m (k + 1) n = some ys := by
          refine ih.2 ⟨by simpa using hl, fun i hi => ?_⟩
          have := hr (i + 1) (by omega)
          rw [List.getElem?_cons_succ] at this
          rw [← this]; congr 1; omega
        rw [hx, hys]

/-- Reset's memories are in canonical form. -/
theorem State.powerOn_memWf (p : Params) (inputs : List Event) : (State.powerOn p inputs).memWf := by
  refine ⟨fun m hm => ?_, ?_⟩
  · have : m = [] := by
      simp only [State.powerOn, Vector.toList_replicate, List.mem_replicate] at hm
      exact hm.2
    subst this
    exact ⟨Memory.wf_nil, by simp⟩
  · exact ⟨Memory.wf_nil, by simp [State.powerOn]⟩

end Sys2Proof.Machine
end

