-- ==== Sys2Proof/Laws/Ops.lean ====
section
/-! SUPPORT. What each shared operation can do, said once: slots and BUF after a write, the answers of a completion,
of a submission and of an abort. -/

namespace Sys2Proof.Machine

/-! ### Slots and BUF -/

theorem State.slot_isSome {s : State} {d : SlotIx} (h : d.toNat < 8) : ∃ m, s.slot d = some m :=
  ⟨s.slots[d.toNat], by simp [State.slot, h]⟩

theorem State.slot_eq_none {s : State} {d : SlotIx} (h : ¬ d.toNat < 8) : s.slot d = none := by
  simpa [State.slot] using h

/-- The slots after a slot's memory is replaced. -/
theorem State.slot_setSlot (s : State) {d : SlotIx} (h : d.toNat < 8) (m : Memory Word) (e : SlotIx) :
    (s.setSlot d m).slot e = if e = d then some m else s.slot e := by
  unfold State.slot State.setSlot
  by_cases he : e = d
  · subst he
    simp [h]
  · have hne : d.toNat ≠ e.toNat := fun hh => he (BitVec.eq_of_toNat_eq hh.symm)
    simp only [if_neg he]
    rw [Vector.getElem?_setIfInBounds_ne hne]

/-- The coefficients after a slot is written whole: the words written in that slot, every other location as before. -/
theorem State.coeffAt_writeSlot (s : State) {d : SlotIx} (h : d.toNat < 8) (ws : List Word) (e : SlotIx) (k : Nat) :
    (s.writeSlot d ws).coeffAt e k = if e = d ∧ k < ws.length then ws[k]? else s.coeffAt e k := by
  obtain ⟨m, hm⟩ := State.slot_isSome (s := s) h
  by_cases he : e = d
  · subst he
    simp [State.coeffAt, State.writeSlot, hm, State.slot_setSlot s h, Memory.read_writeList]
  · simp [State.coeffAt, State.writeSlot, hm, State.slot_setSlot s h, he]

/-- The coefficients after one of them is written. -/
theorem State.coeffAt_writeCoeff (s : State) {d : SlotIx} (h : d.toNat < 8) (k : Nat) (w : Word) (e : SlotIx) (j : Nat) :
    (s.writeCoeff d k w).coeffAt e j = if e = d ∧ j = k then some w else s.coeffAt e j := by
  obtain ⟨m, hm⟩ := State.slot_isSome (s := s) h
  by_cases he : e = d
  · subst he
    simp [State.coeffAt, State.writeCoeff, hm, State.slot_setSlot s h, Memory.read_write]
  · simp [State.coeffAt, State.writeCoeff, hm, State.slot_setSlot s h, he]

/-- Two states with the same slots have the same coefficients. -/
theorem State.coeffAt_congr {s t : State} (h : t.slots = s.slots) (d : SlotIx) (k : Nat) :
    t.coeffAt d k = s.coeffAt d k := by
  simp [State.coeffAt, State.slot, h]

/-- The bytes of BUF after a write. -/
theorem State.byteAt_writeBuf (s : State) (off : Nat) (bs : List Byte) (a : Nat) :
    (s.writeBuf off bs).byteAt a = if off ≤ a ∧ a < off + bs.length then bs[a - off]? else s.byteAt a :=
  Memory.read_writeList s.buf off bs a

/-- Two states with the same BUF have the same bytes. -/
theorem State.byteAt_congr {s t : State} (h : t.buf = s.buf) (a : Nat) : t.byteAt a = s.byteAt a := by
  simp [State.byteAt, h]

/-! ### Free values -/

@[simp] theorem drawnWords_length (start : Nat) (ws : List (Option Word)) :
    (drawnWords start ws).length = ws.length := by simp [drawnWords]

@[simp] theorem drawnBytes_length (start : Nat) (bs : List (Option Byte)) :
    (drawnBytes start bs).length = bs.length := by simp [drawnBytes]

/-- A drawn word is the known one, or the free value of its position. -/
theorem drawnWords_getElem? (start : Nat) (ws : List (Option Word)) (k : Nat) :
    (drawnWords start ws)[k]? = ws[k]?.map fun w => w.getD (Config.freeWord (start + k)) := by
  simp [drawnWords, List.getElem?_mapIdx]

/-- A drawn byte is the known one, or the free value of its position. -/
theorem drawnBytes_getElem? (start : Nat) (bs : List (Option Byte)) (k : Nat) :
    (drawnBytes start bs)[k]? = bs[k]?.map fun b => b.getD (Config.freeByte (start + k)) := by
  simp [drawnBytes, List.getElem?_mapIdx]

/-- Where every word is known nothing is drawn. -/
theorem drawnWords_map_some (start : Nat) (ws : List Word) : drawnWords start (ws.map some) = ws := by
  apply List.ext_getElem?
  intro k
  rw [drawnWords_getElem?, List.getElem?_map]
  cases ws[k]? <;> rfl

/-- Where every byte is known nothing is drawn. -/
theorem drawnBytes_map_some (start : Nat) (bs : List Byte) : drawnBytes start (bs.map some) = bs := by
  apply List.ext_getElem?
  intro k
  rw [drawnBytes_getElem?, List.getElem?_map]
  cases bs[k]? <;> rfl

/-- The coefficients after a slot is written whole with some words UNSPEC. -/
theorem State.coeffAt_writeSlotDrawn (s : State) {d : SlotIx} (h : d.toNat < 8) (ws : List (Option Word)) (e : SlotIx)
    (k : Nat) :
    (s.writeSlotDrawn d ws).coeffAt e k =
      if e = d ∧ k < ws.length then ws[k]?.map fun w => w.getD (Config.freeWord (s.draws + k)) else s.coeffAt e k := by
  rw [State.coeffAt_congr (s := s.writeSlot d (drawnWords s.draws ws)) (by simp), State.coeffAt_writeSlot s h,
    drawnWords_length, drawnWords_getElem?]

/-- The bytes of BUF after a write with some bytes UNSPEC. -/
theorem State.byteAt_writeBufDrawn (s : State) (off : Nat) (bs : List (Option Byte)) (a : Nat) :
    (s.writeBufDrawn off bs).byteAt a =
      if off ≤ a ∧ a < off + bs.length then bs[a - off]?.map fun b => b.getD (Config.freeByte (s.draws + (a - off)))
      else s.byteAt a := by
  rw [State.byteAt_congr (s := s.writeBuf off (drawnBytes s.draws bs)) (by simp [State.writeBuf]),
    State.byteAt_writeBuf, drawnBytes_length, drawnBytes_getElem?]

/-! ### Completion -/

/-- A meaning answers a next state only with a command in flight. -/
theorem whileInFlight_next {s t : State} {k : Flight → Result} (h : whileInFlight s k = .next t) :
    ∃ f, s.flight = some f ∧ k f = .next t := by
  unfold whileInFlight at h
  split at h
  · exact ⟨_, ‹_›, h⟩
  · cases h

theorem whileInFlight_of {s : State} {f : Flight} (h : s.flight = some f) (k : Flight → Result) :
    whileInFlight s k = k f := by simp [whileInFlight, h]

theorem completeSlot_next {s t : State} {d : SlotIx} {ws : List Word} (h : completeSlot s d ws = .next t) :
    d.toNat < 8 ∧ t = (s.writeSlot d ws).retire .ok := by
  unfold completeSlot at h
  split at h
  · exact ⟨‹_›, by simpa using h.symm⟩
  · cases h

theorem completeSlotDrawn_next {s t : State} {d : SlotIx} {ws : List (Option Word)} {e : ErrCode}
    (h : completeSlotDrawn s d ws e = .next t) : d.toNat < 8 ∧ t = (s.writeSlotDrawn d ws).retire e := by
  unfold completeSlotDrawn at h
  split at h
  · exact ⟨‹_›, by simpa using h.symm⟩
  · cases h

theorem storeBytes_next {s t : State} {off : Bus} {bs : List (Option Byte)} {k : State → Result}
    (h : storeBytes s off bs k = .next t) :
    off.toNat + bs.length ≤ s.params.bufBytes ∧ k (s.writeBufDrawn off.toNat bs) = .next t := by
  unfold storeBytes at h
  split at h
  · exact ⟨‹_›, h⟩
  · cases h

@[simp] theorem wordsOrUnspec_some (n : Nat) (ws : List Word) : wordsOrUnspec n (some ws) = ws.map some := rfl

@[simp] theorem wordsOrUnspec_none (n : Nat) : wordsOrUnspec n none = List.replicate n none := rfl

/-! ### Submission -/

/-- What a write to CMD can do while no command is in flight: reject with the code of the first check that fails, or
accept with the input set snapshotted. -/
theorem submit_next {s t : State} {w : Bus} (h : submit s w = .next t) :
    (∃ e, checkCommand s w = .error e ∧ t = s.reject w e) ∨
    ∃ i inA inB in0 in1, checkCommand s w = .ok i ∧ captureSlot s (srcSlotA i) = some inA ∧
      captureSlot s (srcSlotB i) = some inB ∧ captureRegion s i .b0 = some in0 ∧ captureRegion s i .b1 = some in1 ∧
      t = s.accept (s.latch w inA inB in0 in1) := by
  unfold submit at h
  split at h
  · exact .inl ⟨_, ‹_›, by simpa using h.symm⟩
  · split at h
    · exact .inr ⟨_, _, _, _, _, ‹_›, ‹_›, ‹_›, ‹_›, ‹_›, by simpa using h.symm⟩
    · cases h
    · cases h

/-- A command that the submission checks pass decodes, has valid slot fields and regions in BUF. -/
theorem checkCommand_ok {s : State} {w : Bus} {i : Instr} (h : checkCommand s w = .ok i) :
    decode w = .ok i ∧ i.wf = true ∧ rangesOk s i = true := by
  unfold checkCommand at h
  split at h
  · cases h
  · split at h
    · cases h
    · split at h
      · cases h
      · cases h
        simp_all

end Sys2Proof.Machine
end

