-- ==== Sys2Proof/Laws/PerInstr.lean ====
section
/-! SUPPORT. The statements made per instruction. -/

namespace Sys2Proof.Laws.SlotFields

open Sys2Proof Sys2Proof.Machine

/-- A slot field that a command does not have is no obstacle; one that it has must name a slot. -/
def fieldOk : Option SlotIx → Bool
  | none => true
  | some x => SlotIx.valid x

/-- A command is well-formed exactly when every slot that its row of R93 names as a destination or a source is one of the
eight (R91, R263 check 3): well-formedness and the operand forms speak of the same fields. -/
def Statement (i : Instr) : Prop :=
  i.wf = (fieldOk (destSlot i) && fieldOk (srcSlotA i) && fieldOk (srcSlotB i))

theorem mulq (d a b : SlotIx) (phi : Bool) : Statement (.mulq d a b phi) := rfl
theorem mul3 (d a b : SlotIx) : Statement (.mul3 d a b) := rfl
theorem inv2 (d a : SlotIx) (ring : RingSel) : Statement (.inv2 d a ring) := by
  simp [Statement, Instr.wf, fieldOk, destSlot, srcSlotA, srcSlotB]
theorem invq (d a : SlotIx) (ring : RingSel) : Statement (.invq d a ring) := by
  simp [Statement, Instr.wf, fieldOk, destSlot, srcSlotA, srcSlotB]
theorem inv3 (d a : SlotIx) (ring : RingSel) : Statement (.inv3 d a ring) := by
  simp [Statement, Instr.wf, fieldOk, destSlot, srcSlotA, srcSlotB]
theorem z3tozq (d a : SlotIx) : Statement (.z3tozq d a) := by
  simp [Statement, Instr.wf, fieldOk, destSlot, srcSlotA, srcSlotB]
theorem zqtoz3 (d a : SlotIx) : Statement (.zqtoz3 d a) := by
  simp [Statement, Instr.wf, fieldOk, destSlot, srcSlotA, srcSlotB]
theorem zqtos (d a : SlotIx) : Statement (.zqtos d a) := by
  simp [Statement, Instr.wf, fieldOk, destSlot, srcSlotA, srcSlotB]
theorem rqtos3 (d a : SlotIx) : Statement (.rqtos3 d a) := by
  simp [Statement, Instr.wf, fieldOk, destSlot, srcSlotA, srcSlotB]
theorem lift (d a : SlotIx) : Statement (.lift d a) := by
  simp [Statement, Instr.wf, fieldOk, destSlot, srcSlotA, srcSlotB]
theorem packq (a : SlotIx) : Statement (.packq a) := by
  simp [Statement, Instr.wf, fieldOk, destSlot, srcSlotA, srcSlotB]
theorem unpackq (d : SlotIx) (last : LastCoeff) : Statement (.unpackq d last) := by
  simp [Statement, Instr.wf, fieldOk, destSlot, srcSlotA, srcSlotB]
theorem pack3 (a : SlotIx) : Statement (.pack3 a) := by
  simp [Statement, Instr.wf, fieldOk, destSlot, srcSlotA, srcSlotB]
theorem unpack3 (d : SlotIx) : Statement (.unpack3 d) := by
  simp [Statement, Instr.wf, fieldOk, destSlot, srcSlotA, srcSlotB]
theorem sampiid (d : SlotIx) : Statement (.sampiid d) := by
  simp [Statement, Instr.wf, fieldOk, destSlot, srcSlotA, srcSlotB]
theorem sampfw (d : SlotIx) : Statement (.sampfw d) := by
  simp [Statement, Instr.wf, fieldOk, destSlot, srcSlotA, srcSlotB]
theorem sampbi (d : SlotIx) : Statement (.sampbi d) := by
  simp [Statement, Instr.wf, fieldOk, destSlot, srcSlotA, srcSlotB]
theorem keypair : Statement .keypair := rfl
theorem enc (a b : SlotIx) : Statement (.enc a b) := by
  simp [Statement, Instr.wf, fieldOk, destSlot, srcSlotA, srcSlotB]
theorem dec : Statement .dec := rfl

end Sys2Proof.Laws.SlotFields
end

