-- ==== Sys2Proof/Laws/Step.lean ====
section
/-! SUPPORT. What a step can do: the engine's turn, or one host event. -/

namespace Sys2Proof.Machine

/-- The engine's turn answers a next state in two ways: nothing in flight and nothing changes, or the command in flight
completes. -/
theorem engineTurn_next {s t : State} (h : engineTurn s = .next t) :
    (s.flight = none ∧ t = s) ∨ ∃ f i, s.flight = some f ∧ decode f.cmd = .ok i ∧ exec i s = .next t := by
  unfold engineTurn at h
  split at h
  · exact .inl ⟨‹_›, by simpa using h.symm⟩
  · split at h
    · exact .inr ⟨_, _, ‹_›, ‹_›, h⟩
    · cases h

/-- A step is the engine's turn with an empty schedule, or the oldest event of the schedule. -/
theorem step_cases {s : State} {r : Result} (h : step s = r) :
    (s.inputs = [] ∧ engineTurn s = r) ∨
    ∃ e rest, s.inputs = e :: rest ∧
      hostEvent { s with inputs := rest } (engineTurn { s with inputs := rest }) e = r := by
  unfold step at h
  split at h
  · exact .inl ⟨‹_›, h⟩
  · exact .inr ⟨_, _, ‹_›, h⟩

/-- An access goes on only when it is an aligned 32-bit access. -/
theorem aligned32_next {size : AccessSize} {off : Offset} {r : Result} {t : State}
    (h : aligned32 size off r = .next t) : size = .word ∧ off.toNat % 4 = 0 ∧ r = .next t := by
  unfold aligned32 at h
  split at h
  · split at h
    · exact ⟨rfl, ‹_›, h⟩
    · cases h
  · cases h
  · cases h

end Sys2Proof.Machine
end

