-- ==== Sys2Proof/Tests/Slice0.lean ====
section
/-! SUPPORT. The model's own tests: the well-formedness smoke, one word of each command written out from R90 to R98, the
vectors of 95_test_vectors.md on single steps, and a witness for the hypotheses of each statement. Every expected value
is the spec's; the vector's name stands beside it. -/

namespace Sys2Proof.Tests

open Sys2Proof Sys2Proof.Machine Sys2Proof.Claims

/-! ### The parameter sets of 95_test_vectors.md, section 0, and small states -/

/-- Set T5. -/
def t5 : Params := { n := 5, logq := 7, weight := 2, family := .fw, iidBytes := 8, ftBytes := 16, bufBytes := 16384 }
/-- Set T5B. -/
def t5b : Params := { t5 with family := .bi }
/-- Set T8. -/
def t8 : Params := { n := 8, logq := 8, weight := 4, family := .fw, iidBytes := 12, ftBytes := 16, bufBytes := 16384 }
/-- Set T5w. -/
def t5w : Params := { t5 with logq := 4, iidBytes := 36, ftBytes := 144 }

/-- Words from numbers. -/
def words (l : List Nat) : List Word := l.map (BitVec.ofNat 16)
/-- Bytes from numbers. -/
def bytes (l : List Nat) : List Byte := l.map (BitVec.ofNat 8)

/-- A latched command with BOFF0 = 0, BOFF1 = 0x40 and BOFF2 = 0x80. -/
def latched (i : Instr) (a b r0 r1 : List Nat) : Flight :=
  { cmd := encode i, boff0 := 0, boff1 := 0x40, boff2 := 0x80, inA := words a, inB := words b, in0 := bytes r0,
    in1 := bytes r1 }

/-- A machine in which the command is in flight with the given snapshot. -/
def running (p : Params) (i : Instr) (a b r0 r1 : List Nat) : State :=
  { State.powerOn p [] with flight := some (latched i a b r0 r1) }

/-- A machine of build p with P[0], P[1] and BUF[0..] written. -/
def prepared (p : Params) (a b buf : List Nat) (inputs : List Event) : State :=
  (((State.powerOn p inputs).writeSlot 0 (words a)).writeSlot 1 (words b)).writeBuf 0 (bytes buf)

/-- The answer is a next state with a property. -/
def nextWith (r : Result) (ok : State → Bool) : Bool :=
  match r with
  | .next t => ok t
  | .fault _ => false
  | .refused _ => false

/-- The answer is this fault. -/
def faultsWith (r : Result) (e : Fault) : Bool :=
  match r with
  | .fault x => decide (x = e)
  | .next _ => false
  | .refused _ => false

/-- The answer is this refusal. -/
def refusedWith (r : Result) (e : Refusal) : Bool :=
  match r with
  | .refused x => decide (x = e)
  | .next _ => false
  | .fault _ => false

/-- P[d] as numbers. -/
def slotIs (t : State) (d : SlotIx) (l : List Nat) : Bool :=
  (List.range t.params.n).map (t.coeffAt d) == l.map fun x => some (BitVec.ofNat 16 x)

/-- The bytes of BUF from an offset on. -/
def bufIs (t : State) (off : Nat) (l : List Nat) : Bool :=
  (List.range l.length).map (fun j => t.byteAt (off + j)) == l.map fun x => some (BitVec.ofNat 8 x)

/-! ### Well-formedness: an ill-formed term for each check -/

theorem test_wf_good : Instr.wf (.mulq 7 0 7 true) = true := by decide
theorem test_wf_bad_d : Instr.wf (.mulq 8 0 0 false) = false := by decide
theorem test_wf_bad_a : Instr.wf (.packq 8) = false := by decide
theorem test_wf_bad_b : Instr.wf (.enc 0 15) = false := by decide
theorem test_params_good : t5.wf = true ∧ t5b.wf = true ∧ t8.wf = true ∧ t5w.wf = true := by decide
theorem test_params_n : Params.wf { t5 with n := 2, weight := 0 } = false ∧
    Params.wf { t5 with n := 2049, iidBytes := 4096, ftBytes := 8192 } = false := by decide
theorem test_params_logq : Params.wf { t5 with logq := 1 } = false ∧ Params.wf { t5 with logq := 17 } = false := by decide
theorem test_params_weight : Params.wf { t5 with weight := 3 } = false ∧ Params.wf { t5 with weight := 6 } = false := by
  decide
theorem test_params_iid : Params.wf { t5 with iidBytes := 3 } = false ∧
    Params.wf { t5 with iidBytes := 4294967296 } = false := by decide
theorem test_params_ft : Params.wf { t5 with ftBytes := 4 } = false ∧ Params.wf { t5 with ftBytes := 17 } = false ∧
    Params.wf { t5 with ftBytes := 4294967296 } = false := by decide
theorem test_params_buf : Params.wf { t5 with bufBytes := 0 } = false ∧ Params.wf { t5 with bufBytes := 65537 } = false := by
  decide
theorem test_params_bi : Params.wf { t5b with n := 6, iidBytes := 8 } = false := by decide

/-! ### Decoding: words written out from R90 (RSV MODE B A D OP) -/

theorem test_decode_mulq : decode 0b00000000_0001_0010_0001_0011_00000001#32 = .ok (.mulq 3 1 2 true) := by decide
theorem test_decode_mul3 : decode 0b00000000_0000_0011_0010_0100_00000010#32 = .ok (.mul3 4 2 3) := by decide
theorem test_decode_inv2 : decode 0b00000000_0001_0000_0000_0001_00000011#32 = .ok (.inv2 1 0 .rXn) := by decide
theorem test_decode_invq : decode 0b00000000_0000_0000_0000_0001_00000100#32 = .ok (.invq 1 0 .sPhi) := by decide
theorem test_decode_inv3 : decode 0b00000000_0000_0000_0000_0010_00000101#32 = .ok (.inv3 2 0 .sPhi) := by decide
theorem test_decode_z3tozq : decode 0b00000000_0000_0000_0001_0010_00001000#32 = .ok (.z3tozq 2 1) := by decide
theorem test_decode_zqtoz3 : decode 0b00000000_0000_0000_0100_0111_00001001#32 = .ok (.zqtoz3 7 4) := by decide
theorem test_decode_zqtos : decode 0b00000000_0000_0000_0001_0000_00001010#32 = .ok (.zqtos 0 1) := by decide
theorem test_decode_rqtos3 : decode 0b00000000_0000_0000_0110_0101_00001011#32 = .ok (.rqtos3 5 6) := by decide
theorem test_decode_lift : decode 0b00000000_0000_0000_0100_0101_00001100#32 = .ok (.lift 5 4) := by decide
theorem test_decode_packq : decode 0b00000000_0000_0000_0011_0000_00010000#32 = .ok (.packq 3) := by decide
theorem test_decode_unpackq : decode 0b00000000_0001_0000_0000_0110_00010001#32 = .ok (.unpackq 6 .zero) := by decide
theorem test_decode_pack3 : decode 0b00000000_0000_0000_0001_0000_00010010#32 = .ok (.pack3 1) := by decide
theorem test_decode_unpack3 : decode 0b00000000_0000_0000_0000_0111_00010011#32 = .ok (.unpack3 7) := by decide
theorem test_decode_sampiid : decode 0b00000000_0000_0000_0000_0011_00100000#32 = .ok (.sampiid 3) := by decide
theorem test_decode_sampfw : decode 0b00000000_0000_0000_0000_0001_00100001#32 = .ok (.sampfw 1) := by decide
theorem test_decode_sampbi : decode 0b00000000_0000_0000_0000_0010_00100010#32 = .ok (.sampbi 2) := by decide
theorem test_decode_keypair : decode 0b00000000_0000_0000_0000_0000_00110000#32 = .ok .keypair := by decide
theorem test_decode_enc : decode 0b00000000_0000_0001_0000_0000_00110001#32 = .ok (.enc 0 1) := by decide
theorem test_decode_dec : decode 0b00000000_0000_0000_0000_0000_00110010#32 = .ok .dec := by decide

/-- V-E1 to V-E5: the errors by name. -/
theorem test_decode_errors : decode 0x000000FF = .error .illegalOpcode ∧ decode 0x01000001 = .error .reservedField ∧
    decode 0x00100002 = .error .reservedField ∧ decode 0x00000110 = .error .reservedField ∧
    decode 0x00000801 = .ok (.mulq 8 0 0 false) := by decide

/-- The table's rows through the host's entry, an option bit and high slot numbers included. -/
theorem test_decode_table : decodeTableWord 32 0x00110201 = some (.mulq 2 0 1 true) ∧
    decodeTableWord 32 0x000F00FF = none ∧ decodeTableWord 32 0x00000F13 = some (.unpack3 15) := by decide

/-! ### The commands, on the vectors of sections 3 to 7 -/

/-- V-R2. -/
theorem test_mulq_phi : nextWith (exec (.mulq 2 0 1 true)
    (running t5 (.mulq 2 0 1 true) [1, 2, 0, 0, 127] [3, 0, 1, 0, 0] [] [])) (slotIs · 2 [6, 8, 4, 5, 0]) = true := by decide
/-- V-R3: words are read mod Q. -/
theorem test_mulq_reads_mod_q : nextWith (exec (.mulq 0 0 1 false)
    (running t5 (.mulq 0 0 1 false) [0xFFFF, 0, 0, 0, 0] [5, 6, 0, 0, 1] [] [])) (slotIs · 0 [123, 122, 0, 0, 127]) = true := by
  decide
/-- V-R6. -/
theorem test_mul3 : nextWith (exec (.mul3 4 2 3)
    (running t5 (.mul3 4 2 3) [1, 2, 0, 1, 0] [2, 2, 1, 0, 0] [] [])) (slotIs · 4 [1, 1, 0, 2, 0]) = true := by decide
/-- V-R8: the wrap mod Q below 4·N. -/
theorem test_mul3_wraps : nextWith (exec (.mul3 1 0 0)
    (running t5w (.mul3 1 0 0) [2, 2, 2, 2, 0] [2, 2, 2, 2, 0] [] [])) (slotIs · 1 [0, 0, 0, 0, 0]) = true := by decide
/-- V-R15. -/
theorem test_inv2 : nextWith (exec (.inv2 1 0 .sPhi) (running t5 (.inv2 1 0 .sPhi) [1, 1, 1, 0, 0] [] [] []))
    (slotIs · 1 [1, 0, 0, 1, 0]) = true := by decide
/-- V-R14: even weight has no inverse in R_2; the command completes with ERR = 0. -/
theorem test_inv2_none : nextWith (exec (.inv2 1 0 .rXn) (running t5 (.inv2 1 0 .rXn) [1, 1, 0, 0, 0] [] [] []))
    (fun t => t.done && decide (t.err = .ok) && decide (t.draws = 5)) = true := by decide
/-- V-R9. -/
theorem test_invq : nextWith (exec (.invq 1 0 .sPhi) (running t5 (.invq 1 0 .sPhi) [3, 2, 0, 0, 0] [] [] []))
    (slotIs · 1 [91, 30, 28, 72, 0]) = true := by decide
/-- V-R10. -/
theorem test_invq_xn : nextWith (exec (.invq 1 0 .rXn) (running t5 (.invq 1 0 .rXn) [3, 2, 0, 0, 0] [] [] []))
    (slotIs · 1 [11, 78, 76, 120, 48]) = true := by decide
/-- V-R17. -/
theorem test_inv3 : nextWith (exec (.inv3 2 0 .sPhi) (running t5 (.inv3 2 0 .sPhi) [2, 1, 0, 0, 0] [] [] []))
    (slotIs · 2 [1, 0, 2, 1, 0]) = true := by decide
/-- V-R16. -/
theorem test_inv3_xn : nextWith (exec (.inv3 2 0 .rXn) (running t5 (.inv3 2 0 .rXn) [1, 1, 0, 0, 0] [] [] []))
    (slotIs · 2 [2, 1, 2, 1, 2]) = true := by decide
/-- V-C1. -/
theorem test_z3tozq : nextWith (exec (.z3tozq 1 1) (running t5 (.z3tozq 1 1) [0, 1, 2, 0, 1] [] [] []))
    (slotIs · 1 [0, 1, 127, 0, 1]) = true := by decide
/-- V-C2: the coefficients beside an UNSPEC one are exact. -/
theorem test_z3tozq_unspec : nextWith (exec (.z3tozq 1 1) (running t5 (.z3tozq 1 1) [3, 0, 0, 2, 0] [] [] []))
    (fun t => decide (t.coeffAt 1 3 = some 127) && decide (t.err = .ok)) = true := by decide
/-- V-C3. -/
theorem test_zqtoz3 : nextWith (exec (.zqtoz3 1 0) (running t5 (.zqtoz3 1 0) [0, 1, 127, 0x7F, 0x81] [] [] []))
    (slotIs · 1 [0, 1, 2, 2, 1]) = true := by decide
/-- V-C5. -/
theorem test_zqtos : nextWith (exec (.zqtos 1 0) (running t5 (.zqtos 1 0) [0, 1, 127, 255, 129] [] [] []))
    (slotIs · 1 [0, 1, 0xFFFF, 0xFFFF, 1]) = true := by decide
/-- V-C6. -/
theorem test_rqtos3 : nextWith (exec (.rqtos3 1 0) (running t5 (.rqtos3 1 0) [0, 1, 63, 64, 127] [] [] []))
    (slotIs · 1 [1, 2, 1, 0, 0]) = true := by decide
/-- V-C7. -/
theorem test_rqtos3_more : nextWith (exec (.rqtos3 1 0) (running t5 (.rqtos3 1 0) [5, 100, 64, 2, 3] [] [] []))
    (slotIs · 1 [2, 2, 2, 2, 0]) = true := by decide
/-- V-C8. -/
theorem test_lift_fw : nextWith (exec (.lift 5 4) (running t5 (.lift 5 4) [1, 2, 0, 0, 0] [] [] []))
    (slotIs · 5 [1, 127, 0, 0, 0]) = true := by decide
/-- V-C9. -/
theorem test_lift_bi : nextWith (exec (.lift 5 4) (running t5b (.lift 5 4) [1, 0, 0, 0, 0] [] [] []))
    (slotIs · 5 [127, 1, 1, 126, 1]) = true := by decide
/-- V-P1. -/
theorem test_packq : nextWith (exec (.packq 3) (running t5 (.packq 3) [0x55, 0x2A, 0x7F, 0x01, 0x40] [] [] []))
    (bufIs · 0 [0xaa, 0xab, 0xf8, 0x10]) = true := by decide
/-- V-P4: the padding bits are ignored. -/
theorem test_unpackq : nextWith (exec (.unpackq 6 .sumZero) (running t5 (.unpackq 6 .sumZero) [] [] [0xaa, 0xab, 0xf8, 0x1f] []))
    (slotIs · 6 [85, 42, 127, 1, 1]) = true := by decide
/-- V-P3. -/
theorem test_unpackq_phi : nextWith (exec (.unpackq 6 .zero) (running t5 (.unpackq 6 .zero) [] [] [0xaa, 0xab, 0xf8, 0x10] []))
    (slotIs · 6 [85, 42, 127, 1, 0]) = true := by decide
/-- V-P7. -/
theorem test_pack3 : nextWith (exec (.pack3 1) (running t8 (.pack3 1) [1, 0, 1, 2, 2, 0, 0, 0] [] [] []))
    (bufIs · 0 [0xe2, 0x00]) = true := by decide
/-- V-P9. -/
theorem test_unpack3 : nextWith (exec (.unpack3 7) (running t8 (.unpack3 7) [] [] [0xf2, 0x0e] []))
    (slotIs · 7 [2, 2, 2, 2, 2, 2, 1, 0]) = true := by decide
/-- V-P10: bytes above 242 decode. -/
theorem test_unpack3_ff : nextWith (exec (.unpack3 7) (running t5 (.unpack3 7) [] [] [0xff] []))
    (slotIs · 7 [0, 1, 1, 0, 0]) = true := by decide
/-- V-S1. -/
theorem test_sampiid : nextWith (exec (.sampiid 0) (running t5 (.sampiid 0) [] [] [0, 0xff, 7, 0xfe, 0x80, 3, 9, 9] []))
    (slotIs · 0 [0, 1, 2, 2, 0]) = true := by decide
/-- V-S2: exhaustion. -/
theorem test_sampiid_exhausts : nextWith (exec (.sampiid 3)
    (running t5 (.sampiid 3) [] [] [255, 255, 255, 255, 255, 1, 2, 3] [])) (fun t => t.statusWord == 0x00000502) = true := by
  decide
/-- V-S3. -/
theorem test_sampfw : nextWith (exec (.sampfw 1)
    (running t8 (.sampfw 1) [] [] [0x0e, 0, 6, 0, 5, 1, 7, 0, 3, 0, 2, 0, 1, 0, 255, 255] []))
    (slotIs · 1 [1, 0, 1, 2, 2, 0, 0, 0]) = true := by decide
/-- V-S4. -/
theorem test_sampfw_zeros : nextWith (exec (.sampfw 1) (running t8 (.sampfw 1) [] [] (List.replicate 16 0) []))
    (slotIs · 1 [0, 0, 0, 2, 2, 1, 1, 0]) = true := by decide
/-- V-S7. -/
theorem test_sampbi_flips : nextWith (exec (.sampbi 2) (running t5b (.sampbi 2) [] [] [1, 2, 0, 0, 9, 9, 9, 9] []))
    (slotIs · 2 [2, 2, 0, 0, 0]) = true := by decide
/-- V-S9: a correlation of 0 does not flip. -/
theorem test_sampbi_zero : nextWith (exec (.sampbi 2) (running t5b (.sampbi 2) [] [] [1, 1, 2, 0, 9, 9, 9, 9] []))
    (slotIs · 2 [1, 1, 2, 0, 0]) = true := by decide

/-- The seed of section 7: (37·i + 14) mod 256. -/
def seed (n : Nat) : List Nat := (List.range n).map fun i => (37 * i + 14) % 256

/-- V-O1. -/
theorem test_keypair_fw : nextWith (exec .keypair (running t5 .keypair [] [] (seed 24) []))
    (fun t => bufIs t 0x40 [0x76, 0x91, 0x76, 0x90] && bufIs t 0x80 [0x41, 0x07, 0x23, 0xdd, 0x9c, 0x40]) = true := by decide
/-- V-O8. -/
theorem test_keypair_bi : nextWith (exec .keypair (running t5b .keypair [] [] (seed 16) []))
    (fun t => bufIs t 0x40 [0x07, 0xf4, 0x00, 0x30] && bufIs t 0x80 [0x49, 0x26, 0xbc, 0xf0, 0xd4, 0xd0]) = true := by decide
/-- V-O2. -/
theorem test_enc : nextWith (exec (.enc 0 1)
    (running t5 (.enc 0 1) [1, 0, 127, 1, 0] [0, 2, 0, 1, 0] [0x76, 0x91, 0x76, 0x90] []))
    (bufIs · 0x40 [0x00, 0x0b, 0xe8, 0x10]) = true := by decide
/-- V-O9. -/
theorem test_enc_bi : nextWith (exec (.enc 0 1)
    (running t5b (.enc 0 1) [1, 0, 127, 1, 0] [2, 1, 0, 1, 0] [0x07, 0xf4, 0x00, 0x30] []))
    (bufIs · 0x40 [0x00, 0x0b, 0xd8, 0x80]) = true := by decide
/-- V-O3 and V-O4: the same key and message, with the padding clean and then corrupted. -/
theorem test_dec_padding :
    nextWith (exec .dec (running t5 .dec [] [] [0x00, 0x0b, 0xe8, 0x10] [0x41, 0x07, 0x23, 0xdd, 0x9c, 0x40]))
      (fun t => bufIs t 0x80 [0x2e, 0x21] && !t.fail) = true ∧
    nextWith (exec .dec (running t5 .dec [] [] [0x00, 0x0b, 0xe8, 0x11] [0x41, 0x07, 0x23, 0xdd, 0x9c, 0x40]))
      (fun t => bufIs t 0x80 [0x2e, 0x21] && t.fail && decide (t.err = .ok)) = true := by decide
/-- V-O5: the m byte is exact although the checks fail. -/
theorem test_dec_message_check :
    nextWith (exec .dec (running t5 .dec [] [] [0x02, 0x13, 0xe8, 0x00] [0x41, 0x07, 0x23, 0xdd, 0x9c, 0x40]))
      (fun t => bufIs t 0x81 [0x48] && t.fail) = true := by decide

/-! ### Submission, registers, windows and reset, on the vectors of section 8 -/

/-- V-E1. -/
theorem test_illegal_opcode : nextWith (step { State.powerOn t5 [] with inputs := [.write .word 0x20 0x000000FF] })
    (fun t => t.statusWord == 0x00000102 && t.errcmd == 0x000000FF) = true := by decide
/-- V-E6. -/
theorem test_reserved_before_slot : nextWith (step { State.powerOn t5 [] with inputs := [.write .word 0x20 0x01000801] })
    (fun t => t.statusWord == 0x00000202) = true := by decide
/-- V-E5. -/
theorem test_bad_slot : nextWith (step { State.powerOn t5 [] with inputs := [.write .word 0x20 0x00000801] })
    (fun t => t.statusWord == 0x00000302) = true := by decide
/-- V-E8 and V-E10. -/
theorem test_bad_range :
    nextWith (step { State.powerOn t5 [] with boff0 := 0x3FFE, inputs := [.write .word 0x20 0x00000010] })
      (fun t => t.statusWord == 0x00000402) = true ∧
    nextWith (step { State.powerOn t5 [] with boff0 := 0xFFFFFFFE, inputs := [.write .word 0x20 0x00000010] })
      (fun t => t.statusWord == 0x00000402) = true := by decide
/-- V-E9: the last region that fits is accepted. -/
theorem test_accept_at_edge : nextWith (step { prepared t5 [0, 0, 0, 0, 0] [] [] [.write .word 0x20 0x00000010] with boff0 := 0x3FFC })
    (fun t => t.statusWord == 0x00000001) = true := by decide
/-- V-E12. -/
theorem test_w1c : nextWith (step { (State.powerOn t5 []).reject 0xFF .illegalOpcode with inputs := [.write .word 0x24 2] })
    (fun t => t.statusWord == 0x00000100) = true := by decide
/-- V-E13. -/
theorem test_cmd_while_busy : nextWith (step { running t5 (.sampiid 3) [] [] (List.replicate 8 255) [] with inputs := [.write .word 0x20 0x00000420] })
    (fun t => t.haz && t.busy && t.errcmd == 0) = true := by decide
/-- V-E14. -/
theorem test_window_while_busy : faultsWith (step { running t5 (.sampiid 3) [] [] [] [] with inputs := [.read .word 0x10000] })
    .windowWhileBusy = true := by decide
/-- V-E15, with a command in flight: IE ends at 0. -/
theorem test_soft_reset : nextWith (step { running t5 (.sampiid 3) [] [] [] [] with ie := true, inputs := [.write .word 0x28 3] })
    (fun t => t.statusWord == 0 && !t.ie && (t.coeffAt 3 4).isSome && (t.coeffAt 2 4).isNone) = true := by decide
/-- V-E16. -/
theorem test_unwritten_read : faultsWith (step { State.powerOn t5 [] with inputs := [.read .word 0x20000] })
    .unwrittenByte = true := by decide
/-- V-E17. -/
theorem test_id : nextWith (step { State.powerOn t5 [] with inputs := [.read .word 0x000] })
    (fun t => t.readData == some 0x4E524331) = true := by decide
/-- R66. -/
theorem test_misaligned : refusedWith (step { State.powerOn t5 [] with inputs := [.read .word 0x002] }) .misalignedAccess = true ∧
    refusedWith (step { State.powerOn t5 [] with inputs := [.write .byte 0x000 0] }) .narrowAccess = true := by decide
/-- P3's read of pk through the BUF window: little-endian lanes. -/
theorem test_buf_window : nextWith (step (prepared t5 [] [] [0x76, 0x91, 0x76, 0x90] [.read .word 0x20000]))
    (fun t => t.readData == some 0x90769176) = true := by decide
/-- R63: coefficient 4 of slot 1, bits 31:16 ignored. -/
theorem test_slot_window : nextWith (step (State.powerOn t5 [.write .word 0x12010 0xABCD1234]))
    (fun t => t.coeffAt 1 4 == some 0x1234) = true := by decide
/-- The very next step of a placed word runs it: the sampler on a prepared region of zeros. -/
theorem test_placed_word_runs : nextWith (step (State.reset.withFetchWord 32 0x00000320)) (slotIs · 3 [0, 0, 0, 0, 0]) = true := by
  decide
/-- A placed word that the checks reject is rejected by the very next step. -/
theorem test_placed_word_rejected : nextWith (step (State.reset.withFetchWord 32 0x00000801))
    (fun t => t.statusWord == 0x00000302) = true := by decide

/-! ### Witnesses: the hypotheses of each statement are met -/

/-- MULQ in flight, with slots and operands as in V-R1. -/
def mulqRunning : State := running t5 (.mulq 2 0 1 true) [1, 2, 0, 0, 127] [3, 0, 1, 0, 0] [] []

/-- KEYPAIR in flight. -/
def keypairRunning : State := running t5 .keypair [] [] (seed 24) []

/-- DEC in flight. -/
def decRunning : State := running t5 .dec [] [] [0x00, 0x0b, 0xe8, 0x10] [0x41, 0x07, 0x23, 0xdd, 0x9c, 0x40]

/-- An idle machine with P[0], P[1] and BUF[0..7] written. -/
def ready (inputs : List Event) : State := prepared t5 [1, 2, 0, 0, 127] [3, 0, 1, 0, 0] [0, 1, 2, 3, 4, 5, 6, 7] inputs

theorem witness_DecodeInvertsEncode : decode 0x00F1F000 = .error .illegalOpcode ∧ decode (0x00FF01 : Bus) = .ok (.mulq 15 15 0 false) := by
  decide

theorem witness_MatchMaskSelectsRow : (0x00000032, 0xFFFFFFFF) ∈ maskRows.map fun r => (r.1, r.2.1) := by decide

theorem witness_SubmissionRejectsByPriority :
    (State.powerOn t5 []).flight = none ∧ bits 0x000000FF 0 8 ∉ opRows.map (·.1) ∧
    (0x01, true, true, true, true) ∈ opRows ∧ bits 0x01000801 0 8 = 0x01 ∧ reservedBad 0x01000801 true true true true ∧
    ¬ reservedBad 0x00000801 true true true true ∧ slotBad 0x00000801 true true true := by
  unfold reservedBad slotBad
  decide

/-- The last clause, at the offset where a region of 4 bytes just fails to fit; at the one below, it fits. -/
theorem witness_SubmissionRejectsByPriority_range :
    (0x10, false, true, false, false) ∈ opRows ∧ bits 0x00000010 0 8 = 0x10 ∧
    ¬ reservedBad 0x00000010 false true false false ∧ ¬ slotBad 0x00000010 false true false ∧
    rangeBad { State.powerOn t5 [] with boff0 := 0x3FFD } 0x00000010 ∧
    ¬ rangeBad { State.powerOn t5 [] with boff0 := 0x3FFC } 0x00000010 := by
  unfold reservedBad slotBad rangeBad
  decide

/-- A command of two slots, and one of an input region. -/
theorem witness_AcceptanceLatchesInputs :
    (ready []).flight = none ∧
    Passes (ready []) 0x00010201 true true ∧ SlotsWritten (ready []) 0x00010201 true true ∧
    RegionsWritten (ready []) 0x00010201 ∧ opInputs t5 0x20 = [(0, 8)] ∧
    Passes (ready []) 0x00000320 false false ∧ SlotsWritten (ready []) 0x00000320 false false ∧
    RegionsWritten (ready []) 0x00000320 := by
  refine ⟨rfl, ⟨true, true, ?_⟩, ?_, ?_, by decide, ⟨true, false, ?_⟩, ?_, ?_⟩ <;>
    (try unfold reservedBad slotBad rangeBad) <;> (try unfold SlotsWritten SlotWritten) <;>
    (try unfold RegionsWritten) <;> decide

/-- DEC's two input regions, the second at BOFF1, are written from the first byte to the last. -/
theorem witness_AcceptanceLatchesInputs_regions :
    opInputs t5 0x32 = [(0, 4), (1, 6)] ∧
    Passes { prepared t5 [] [] (List.replicate 10 0) [] with boff1 := 4 } 0x00000032 false false ∧
    RegionsWritten { prepared t5 [] [] (List.replicate 10 0) [] with boff1 := 4 } 0x00000032 := by
  refine ⟨by decide, ⟨false, false, ?_⟩, ?_⟩ <;> (try unfold reservedBad slotBad rangeBad) <;>
    (try unfold RegionsWritten) <;> decide

theorem witness_UnwrittenInputFaults :
    (ready []).flight = none ∧
    Passes (ready []) 0x00012301 true true ∧ ¬ SlotsWritten (ready []) 0x00012301 true true ∧
    Passes (ready []) 0x00000321 false false ∧ SlotsWritten (ready []) 0x00000321 false false ∧
    ¬ RegionsWritten (ready []) 0x00000321 := by
  refine ⟨rfl, ⟨true, true, ?_⟩, ?_, ⟨true, false, ?_⟩, ?_, ?_⟩ <;>
    (try unfold reservedBad slotBad rangeBad) <;> (try unfold SlotsWritten SlotWritten) <;>
    (try unfold RegionsWritten) <;> decide

theorem witness_StepRunsNextEvent :
    mulqRunning.flight = some (latched (.mulq 2 0 1 true) [1, 2, 0, 0, 127] [3, 0, 1, 0, 0] [] []) ∧
    decode (latched (.mulq 2 0 1 true) [1, 2, 0, 0, 127] [3, 0, 1, 0, 0] [] []).cmd = .ok (.mulq 2 0 1 true) ∧
    mulqRunning.inputs = [] ∧ (ready [.engine]).flight = none ∧ (ready [.engine]).inputs = .engine :: [] ∧
    (ready [.read .word 0x24]).inputs = .read .word 0x24 :: [] ∧ (0x24 : Offset).toNat % 4 = 0 ∧
    (ready [.write .word 0x24 2]).inputs = .write .word 0x24 2 :: [] := by decide

/-- A build of the spec, a command in flight, a slot that exists: the hypotheses of the slot commands' statements
(MulqWritesProduct, Mul3WritesReducedProduct, Inv2Inv3WriteInverse, InvqWritesInverse, TritConversionsPerCoefficient,
Rqtos3WritesCentredResidues, LiftWritesFamilyLift, UnpackqReadsStream, Unpack3ReadsBase3, SampiidWritesScan,
SampfwWritesShuffle, SampbiFixesSign), at the first and the last slot. -/
theorem witness_slot_commands :
    mulqRunning.params.wf = true ∧
    mulqRunning.flight = some (latched (.mulq 2 0 1 true) [1, 2, 0, 0, 127] [3, 0, 1, 0, 0] [] []) ∧
    (0 : SlotIx).toNat < 8 ∧ (7 : SlotIx).toNat < 8 := by decide

/-- Both clauses of the inverse statements, for the moduli 2, 3 and Q: 1 is its own canonical inverse, and 0 has none. -/
theorem witness_LeavesInverse :
    ∀ m : ℤ, m = 2 ∨ m = 3 ∨ m = (t5.q : ℤ) → ∀ ring,
      (IsCanonical 3 m ring one ∧ IsInverse 3 m ring one one) ∧ ¬ ∃ v, IsInverse 3 m ring (fun _ => 0) v := by
  have hq : (t5.q : ℤ) = 128 := by decide
  rw [hq]
  rintro m (rfl | rfl | rfl) ring <;> refine ⟨?_, fun ⟨v, hv⟩ => ?_⟩ <;> cases ring
  all_goals first
    | (unfold IsCanonical IsInverse RingEq cyc one; decide)
    | (have h := hv 0 (by norm_num); simp [cyc, one] at h)

/-- An inverse that is not 1, mod 3 and mod Q, in the ring of each, as the commands' operands hold it (V-R16, V-R9). -/
theorem witness_LeavesInverse_values :
    (IsCanonical 5 3 .rXn (coeff [2, 1, 2, 1, 2]) ∧ IsInverse 5 3 .rXn (coeff [1, 1, 0, 0, 0]) (coeff [2, 1, 2, 1, 2])) ∧
    IsCanonical 5 t5.q .sPhi (coeff [91, 30, 28, 72, 0]) ∧
      IsInverse 5 t5.q .sPhi (coeff [3, 2, 0, 0, 0]) (coeff [91, 30, 28, 72, 0]) := by
  unfold IsCanonical IsInverse RingEq cyc one
  decide

theorem witness_Mul3ExactBelowQ :
    t5.wf = true ∧ inT3 5 [2, 2, 2, 2, 2] = true ∧ ∀ k < 5, cyc 5 (coeff [2, 2, 2, 2, 2]) (coeff [2, 2, 2, 2, 2]) k < t5.q := by
  unfold cyc
  decide

theorem witness_AnsweredInverseIsInverse :
    t5.wf = true ∧ invPrime 5 2 .sPhi [1, 1, 1, 0, 0] = some [1, 0, 0, 1, 0] ∧
    invPrime 5 3 .rXn [1, 1, 0, 0, 0] = some [2, 1, 2, 1, 2] ∧ invQ t5 .sPhi [3, 2, 0, 0, 0] = some [91, 30, 28, 72, 0] := by
  decide

theorem witness_InvertibleModQIffMod2 :
    t5.wf = true ∧ invQ t5 .sPhi [3, 2, 0, 0, 0] = some [91, 30, 28, 72, 0] ∧
    invPrime 5 2 .sPhi [3, 2, 0, 0, 0] = some [1, 0, 0, 0, 0] := by decide

theorem witness_LiftWritesFamilyLift :
    t5.family = .fw ∧ t5b.family = .bi ∧ t5b.wf = true ∧
    (∀ k < 5, wordN (words [2, 2, 2, 2, 2]) k ≤ 2) ∧ ∃ k < 5, 2 < wordN (words [0, 0, 0, 0, 3]) k := by decide

theorem witness_LiftThenReduceRecoversMessage :
    t5b.wf = true ∧ 3 ≤ t5b.logq ∧ inT3 5 [2, 1, 0, 2, 2] = true ∧ Params.wf { t5 with logq := 3 } = true := by decide

/-- The hypotheses of PackqWritesStream and Pack3WritesBase3, and their regions' last fitting offset. -/
theorem witness_pack_commands :
    (running t5 (.packq 3) [0x55, 0x2A, 0x7F, 0x01, 0x40] [] [] []).flight =
      some (latched (.packq 3) [0x55, 0x2A, 0x7F, 0x01, 0x40] [] [] []) ∧
    (latched (.packq 3) [0x55, 0x2A, 0x7F, 0x01, 0x40] [] [] []).boff0.toNat + t5.packqBytes ≤ t5.bufBytes ∧
    (0x3FFC : Bus).toNat + t5.packqBytes ≤ t5.bufBytes ∧ (0x3FFF : Bus).toNat + t5.pack3Bytes ≤ t5.bufBytes := by decide

theorem witness_PackqRoundTrips :
    t5.wf = true ∧ (∀ k < 5, 0 ≤ coeff [85, 42, 127, 1, 1] k ∧ coeff [85, 42, 127, 1, 1] k < t5.q) ∧
    (∑ k ∈ Finset.range 5, coeff [85, 42, 127, 1, 1] k) % t5.q = 0 ∧ coeff [85, 42, 127, 1, 0] 4 = 0 ∧
    (bytes [0xaa, 0xab, 0xf8, 0x1f]).length = t5.packqBytes := by decide

theorem witness_Pack3RoundTrips :
    t8.wf = true ∧ inT3 8 [1, 0, 1, 2, 2, 0, 2, 0] = true ∧ coeff [1, 0, 1, 2, 2, 0, 2, 0] 7 = 0 ∧
    (bytes [242, 8]).length = t8.pack3Bytes ∧ (∀ b < 2, byteN (bytes [242, 8]) b ≤ 242) ∧
    byteN (bytes [242, 8]) (t8.pack3Bytes - 1) < 3 ^ (8 - 1 - 5 * (t8.pack3Bytes - 1)) := by decide

/-- Where the draws of R195's example are made. -/
def exampleDraws (k : ℕ) : ℕ := [0, 7, 6, 5, 4, 2, 0].getD k 0

/-- The example of R195, and a region of bytes 255: both clauses of SampfwWritesShuffle and IndexDrawsInRange. -/
theorem witness_IsDraws :
    t8.wf = true ∧
    wordsOf t8 (bytes [0x0e, 0, 6, 0, 5, 1, 7, 0, 3, 0, 2, 0, 1, 0, 255, 255]) =
      [0x000E, 0x0006, 0x0105, 0x0007, 3, 2, 1, 0xFFFF] ∧
    IsDraws 8 [0x000E, 0x0006, 0x0105, 0x0007, 3, 2, 1, 0xFFFF] [0, 1, 1, 2, 3, 5, 6] ∧
    IsFwSample t8 (bytes [0x0e, 0, 6, 0, 5, 1, 7, 0, 3, 0, 2, 0, 1, 0, 255, 255]) [1, 0, 1, 2, 2, 0, 0, 0] ∧
    RunsOut 8 (wordsOf t8 (bytes (List.replicate 16 255))) := by
  have draws : IsDraws 8 [0x000E, 0x0006, 0x0105, 0x0007, 3, 2, 1, 0xFFFF] [0, 1, 1, 2, 3, 5, 6] := by
    refine ⟨by decide, by decide, exampleDraws, ?_, by decide⟩
    unfold DrawnAbove After
    intro k hk hi
    interval_cases k <;> decide
  refine ⟨by decide, by decide, draws, ⟨_, draws, by decide⟩, 6, by decide, by decide, fun _ => 0, ?_, ?_⟩
  · intro k hk hi
    exact absurd hk (by omega)
  · unfold After
    decide

/-- The clauses of SampiidWritesScan and SampbiFixesSign, with a negative correlation, one that is 0, and an exhausted scan
(the example of R198). -/
theorem witness_samplers :
    t5.n - 1 ≤ (scan t5 (bytes [0, 255, 7, 254, 128, 3, 9, 9])).length ∧
    (scan t5 (bytes [255, 255, 255, 255, 255, 1, 2, 3])).length < t5.n - 1 ∧
    iidSample t5b (bytes [1, 2, 0, 0, 9, 9, 9, 9]) = some [1, 2, 0, 0, 0] ∧ corr 5 [1, 2, 0, 0, 0] = -1 ∧
    biSample t5b (bytes [1, 2, 0, 0, 9, 9, 9, 9]) = some [2, 2, 0, 0, 0] ∧ corr 5 [1, 1, 2, 0, 0] = 0 ∧
    iidSample t5b (bytes (List.replicate 8 255)) = none := by decide

theorem witness_IndexDrawsInRange :
    t8.wf = true ∧ indexDraws t8 [0x000E, 0x0006, 0x0105, 0x0007, 3, 2, 1, 0xFFFF] = some [0, 1, 1, 2, 3, 5, 6] ∧
    indexDraws t8 (List.replicate 8 0xFFFF) = none := by decide

theorem witness_CounterPassIsShuffle :
    t8.wf = true ∧ [0, 1, 1, 2, 3, 5, 6].length = t8.n - 1 ∧ ∀ i < t8.n - 1, [0, 1, 1, 2, 3, 5, 6].getD i 0 ≤ i := by decide

theorem witness_SampfwHasFixedWeight :
    t8.wf = true ∧ sampFwFn t8 (bytes (List.replicate 16 0)) = some [0, 0, 0, 2, 2, 1, 1, 0] := by decide

/-- The samples of the seed of V-O1: SAMPIID of its first 8 bytes, SAMPFW of the 16 after them. -/
theorem witness_IsSampleFG : IsSampleFG t5 (bytes (seed 24)) [2, 0, 1, 2, 0] [0, 2, 1, 0, 0] := by
  refine ⟨by decide, [0, 0, 0, 2], ⟨by decide, by decide, ([0, 2, 1, 0].getD · 0), ?_, by decide⟩, by decide⟩
  unfold DrawnAbove After
  intro k hk hi
  have : k < 4 := hk
  interval_cases k <;> decide

/-- Both outcomes of a seed in each family (V-O1 above, V-O8), and the inverses that the parts of the keys depend on. -/
theorem witness_KeypairWritesKeys :
    keypairRunning.params.wf = true ∧ keypairRunning.flight = some (latched .keypair [] [] (seed 24) []) ∧
    (0x40 : Bus).toNat + t5.pkBytes ≤ t5.bufBytes ∧ (0x80 : Bus).toNat + t5.skBytes ≤ t5.bufBytes ∧
    SeedExhausts t5 (bytes (List.replicate 24 255)) ∧ SeedExhausts t5b (bytes (List.replicate 16 255)) ∧
    IsSampleFG t5b (bytes (seed 16)) [1, 0, 2, 2, 0] [0, 1, 1, 0, 0] ∧
    invPrime 5 3 .sPhi [2, 0, 1, 2, 0] = some [1, 2, 0, 0, 0] ∧ invPrime 5 3 .sPhi [0, 0, 0, 0, 0] = none := by
  refine ⟨by decide, by decide, by decide, by decide, Or.inl ?_, Or.inl ?_, ⟨?_, ?_⟩, ?_, ?_⟩ <;> decide

theorem witness_TransformOfG :
    t5.wf = true ∧ t5b.wf = true ∧ inT3 5 [0, 2, 1, 0, 0] = true ∧ t5.family = .fw ∧ t5b.family = .bi ∧ 4 < t5.n := by decide

/-- V-O1; the samples are those of witness_IsSampleFG. -/
theorem witness_KeypairKeyProperties :
    t5.wf = true ∧ invGF t5 [2, 0, 1, 2, 0] [0, 2, 1, 0, 0] = some [52, 73, 24, 10, 0] ∧
    invF3 t5 [2, 0, 1, 2, 0] = some [1, 2, 0, 0, 0] := by decide

/-- V-O2; and both clauses: a message in T3 has a lift, a word outside T3 exists. -/
theorem witness_EncWritesCiphertext :
    (running t5 (.enc 0 1) [1, 0, 127, 1, 0] [0, 2, 0, 1, 0] [0x76, 0x91, 0x76, 0x90] []).flight =
      some (latched (.enc 0 1) [1, 0, 127, 1, 0] [0, 2, 0, 1, 0] [0x76, 0x91, 0x76, 0x90] []) ∧
    t5.wf = true ∧ (0x40 : Bus).toNat + t5.ctBytes ≤ t5.bufBytes ∧
    liftFn t5 (values 5 (words [0, 2, 0, 1, 0])) = some [0, 127, 0, 1, 0] ∧ 2 < wordN (words [0, 0, 0, 0, 3]) 4 := by decide

/-- V-O3. -/
theorem witness_DecWritesMessageAndFail :
    decRunning.params.wf = true ∧
    decRunning.flight = some (latched .dec [] [] [0x00, 0x0b, 0xe8, 0x10] [0x41, 0x07, 0x23, 0xdd, 0x9c, 0x40]) ∧
    (0x80 : Bus).toNat + t5.rmBytes ≤ t5.bufBytes := by decide

/-- V-O3: what DEC recovers, as DecRecoversByFormula and LastCoefficientCheckNeverFires assume it. -/
theorem witness_LastCoefficientCheckNeverFires :
    t5.wf = true ∧ recoverM t5 (bytes [0x00, 0x0b, 0xe8, 0x10]) (bytes [0x41, 0x07, 0x23, 0xdd, 0x9c, 0x40]) = [0, 2, 0, 1, 0] ∧
    recoverR t5 (bytes [0x00, 0x0b, 0xe8, 0x10]) (bytes [0x41, 0x07, 0x23, 0xdd, 0x9c, 0x40]) = some [1, 0, 127, 1, 0] := by
  decide

theorem witness_SlotCommandsFrame :
    destSlot (.mulq 2 0 1 true) = some 2 ∧ nextWith (exec (.mulq 2 0 1 true) mulqRunning) (fun _ => true) = true ∧
    t5.n ≤ 5 ∧ (3 : SlotIx) ≠ 2 := by decide

theorem witness_BufCommandsFrame :
    destSlot .dec = none ∧ decRunning.flight.isSome = true ∧ nextWith (exec .dec decRunning) (fun _ => true) = true ∧
    destSlot (.packq 3) = none ∧
    (∀ g ∈ regions t5 .dec, g.out = true → (0x82 : Nat) < (0x80 : Bus).toNat ∨ (0x80 : Bus).toNat + g.len ≤ 0x82) := by decide

theorem witness_CompletionReadsOnlySnapshot :
    mulqRunning.params = ((mulqRunning.writeSlot 2 (words [9, 9, 9, 9, 9])).writeBuf 0 (bytes [1])).params ∧
    mulqRunning.draws = ((mulqRunning.writeSlot 2 (words [9, 9, 9, 9, 9])).writeBuf 0 (bytes [1])).draws ∧
    mulqRunning.flight = ((mulqRunning.writeSlot 2 (words [9, 9, 9, 9, 9])).writeBuf 0 (bytes [1])).flight ∧
    mulqRunning.flight.isSome = true ∧ nextWith (exec (.mulq 2 0 1 true) mulqRunning) (fun _ => true) = true := by decide

theorem witness_UnacceptedFormsStop :
    (ready []).flight = none ∧ mulqRunning.flight.isSome = true ∧ destSlot (.mulq 8 0 1 true) = some 8 ∧
    8 ≤ (8 : SlotIx).toNat ∧
    { running t5 (.packq 3) [] [] [] [] with params := { t5 with bufBytes := 3 } }.params.wf = true ∧
    ∃ g ∈ regions { t5 with bufBytes := 3 } (.packq 3), g.out = true ∧
      ({ t5 with bufBytes := 3 } : Params).bufBytes < ((latched (.packq 3) [] [] [] []).boff g.reg).toNat + g.len := by decide

theorem witness_ParameterRegisters : (State.powerOn t5 []).params.wf = true ∧ (0x1C : Offset).toNat < 0x20 := by decide

theorem witness_ControlRegisters : (1 : Bus).getLsbD 1 = false := by decide

/-- The boundary words of the window: coefficient 0 of slot 0, coefficient 4 of slot 7, and the first and last beyond N. -/
theorem witness_SlotWindow :
    (ready []).flight = none ∧ (ready []).params.wf = true ∧
    (0x10000 : Offset).toNat = 0x10000 + (0 : SlotIx).toNat * 0x2000 + 4 * 0 ∧ 0 < (ready []).params.n ∧
    (ready []).coeffAt 0 4 = some 127 ∧ (ready []).coeffAt 7 4 = none ∧
    (0x1E010 : Offset).toNat = 0x10000 + (7 : SlotIx).toNat * 0x2000 + 4 * 4 ∧ (7 : SlotIx).toNat < 8 ∧
    (0x10014 : Offset).toNat = 0x10000 + (0 : SlotIx).toNat * 0x2000 + 4 * 5 ∧ (ready []).params.n ≤ 5 ∧
    (0x1FFFC : Offset).toNat = 0x10000 + (7 : SlotIx).toNat * 0x2000 + 4 * 2047 := by decide

/-- A machine whose BUF has three bytes, so that one lane of the first word lies beyond it. -/
def threeBytes : State := prepared { t5 with bufBytes := 3 } [] [] [1, 2, 3] []

/-- The first and the last word of the window, a word with a lane beyond BUF, and an unwritten one. -/
theorem witness_BufWindow :
    threeBytes.flight = none ∧ (0x20000 : Offset).toNat = 0x20000 + 4 * 0 ∧
    (∀ j < 4, 4 * 0 + j < threeBytes.params.bufBytes → (threeBytes.byteAt (4 * 0 + j)).isSome) ∧
    threeBytes.params.bufBytes ≤ 4 * 0 + 3 ∧ (0x2FFFC : Offset).toNat = 0x20000 + 4 * 0x3FFF ∧
    (ready []).flight = none ∧ (∃ j < 4, 4 * 2 + j < (ready []).params.bufBytes ∧ (ready []).byteAt (4 * 2 + j) = none) := by
  decide

theorem witness_UnmappedReadsZero :
    (0x40 ≤ (0x00040 : Offset).toNat ∧ (0x00040 : Offset).toNat < 0x10000) ∧ (0x0FFFC : Offset).toNat < 0x10000 ∧
    0x30000 ≤ (0x30000 : Offset).toNat ∧ 0x30000 ≤ (0x3FFFC : Offset).toNat := by decide

theorem witness_MisalignedOrNarrowRefused :
    AccessSize.half ≠ .word ∧ AccessSize.byte ≠ .word ∧ (0x00001 : Offset).toNat % 4 ≠ 0 ∧ (0x3FFFF : Offset).toNat % 4 ≠ 0 := by
  decide

theorem witness_AccessesWhileBusy :
    mulqRunning.flight.isSome = true ∧ 0x10000 ≤ (0x10000 : Offset).toNat ∧ (0x2FFFC : Offset).toNat < 0x30000 ∧
    (0x3C : Offset).toNat < 0x40 := by decide

theorem witness_IrqFollowsDone :
    mulqRunning.Inv ∧ mulqRunning.flight ≠ none ∧ nextWith (exec (.mulq 2 0 1 true) mulqRunning) (fun t => !t.irq) = true := by
  decide

theorem witness_ResetKeepsMemory : (3 : Bus).getLsbD 1 = true ∧ (ready []).flight = none := by decide

/-- A slot command, KEYPAIR, and DEC, whose one output region lies apart from its input region at CUR_BOFF1. -/
theorem witness_AbortSpoilsDestinations :
    keypairRunning.Inv ∧ mulqRunning.Inv ∧ decRunning.Inv ∧
    keypairRunning.flight = some (latched .keypair [] [] (seed 24) []) ∧ decode (encode .keypair) = .ok .keypair ∧
    decRunning.flight = some (latched .dec [] [] [0x00, 0x0b, 0xe8, 0x10] [0x41, 0x07, 0x23, 0xdd, 0x9c, 0x40]) ∧
    decode (encode .dec) = .ok .dec ∧ regions t5 .dec = [⟨.b0, 4, false⟩, ⟨.b1, 6, false⟩, ⟨.b2, 2, true⟩] ∧
    (2 : Bus).getLsbD 1 = true ∧ destSlot (.mulq 2 0 1 true) = some 2 := by decide

theorem witness_InvariantAtReset : t5b.wf = true ∧ t8.wf = true := by decide

theorem witness_StepKeepsInvariant : mulqRunning.Inv ∧ nextWith (step mulqRunning) (fun t => t.done) = true := by decide

theorem witness_ParametersNeverChange :
    nextWith (step { mulqRunning with inputs := [.powerOnReset] }) (fun t => decide (t.params = t5)) = true := by decide

theorem witness_AcceptedCommandCompletes : decRunning.Inv ∧ decRunning.flight.isSome = true := by decide

theorem witness_StopsOnlyWhereSpecSays :
    { mulqRunning with inputs := [.read .word 0x20000] }.Inv ∧
    faultsWith (step { mulqRunning with inputs := [.read .word 0x20000] }) .windowWhileBusy = true ∧
    refusedWith (step { mulqRunning with inputs := [.read .half 0] }) .narrowAccess = true := by decide

theorem witness_ReadsHaveNoSideEffect :
    (ready [.read .word 0x10010]).inputs = .read .word 0x10010 :: [] ∧
    nextWith (step (ready [.read .word 0x10010])) (fun t => t.readData == some 127) = true := by decide

/-- D = A and D ≠ A are both met; the operands are those of V-R1. -/
theorem witness_SubmittedProductReachesSlot :
    (ready [.write .word 0x20 (encode (.mulq 0 0 1 false)), .engine]).Inv ∧
    (ready [.write .word 0x20 (encode (.mulq 0 0 1 false)), .engine]).flight = none ∧
    (∀ k < 5, (ready []).coeffAt 0 k = some ((words [1, 2, 0, 0, 127]).getD k 0)) ∧
    (∀ k < 5, (ready []).coeffAt 1 k = some ((words [3, 0, 1, 0, 0]).getD k 0)) ∧ (7 : SlotIx).toNat < 8 := by decide

end Sys2Proof.Tests
end

section
/-! SUPPORT. The lengths of the outputs: polynomials have N coefficients, wire strings the sizes of R9. -/

namespace Sys2Proof.Machine

/-! ### Polynomials -/

@[simp] theorem length_ofCoeffs (n : Nat) (g : Nat → Int) : (ofCoeffs n g).length = n := by simp [ofCoeffs]

@[simp] theorem length_toWords (a : Poly) : (toWords a).length = a.length := by simp [toWords]

@[simp] theorem length_convertEach (n : Nat) (g : Int → Option Int) (a : Poly) : (convertEach n g a).length = n := by
  simp [convertEach]

@[simp] theorem length_convertedWords (cs : List (Option Int)) : (convertedWords cs).length = cs.length := by
  simp [convertedWords]

@[simp] theorem length_mulqFn (p : Params) (a b : Poly) : (mulqFn p a b).length = p.n := length_ofCoeffs _ _

@[simp] theorem length_mulqPhiFn (p : Params) (a b : Poly) : (mulqPhiFn p a b).length = p.n := length_ofCoeffs _ _

@[simp] theorem length_mul3Fn (p : Params) (a b : Poly) : (mul3Fn p a b).length = p.n := length_ofCoeffs _ _

@[simp] theorem length_rqToS3 (p : Params) (a : Poly) : (rqToS3 p a).length = p.n := length_ofCoeffs _ _

@[simp] theorem length_unpackqFn (p : Params) (last : LastCoeff) (bs : List Byte) : (unpackqFn p last bs).length = p.n :=
  length_ofCoeffs _ _

@[simp] theorem length_unpack3Fn (p : Params) (bs : List Byte) : (unpack3Fn p bs).length = p.n := length_ofCoeffs _ _

@[simp] theorem length_canonical (n : Nat) (m : Int) (ring : RingSel) (a : Poly) : (canonical n m ring a).length = n := by
  cases ring <;> exact length_ofCoeffs _ _

/-- What is certified is the candidate. -/
theorem eq_of_certify {n : Nat} {m : Int} {ring : RingSel} {a v u : Poly} (h : certify n m ring a v = some u) : u = v := by
  unfold certify at h
  split at h
  · exact (Option.some.inj h).symm
  · cases h

theorem length_of_invPrime {n : Nat} {m : Int} {ring : RingSel} {a v : Poly} (h : invPrime n m ring a = some v) :
    v.length = n := by
  rw [eq_of_certify h, length_canonical]

theorem length_of_invQ {p : Params} {ring : RingSel} {a v : Poly} (h : invQ p ring a = some v) : v.length = p.n := by
  unfold invQ at h
  split at h
  · cases h
  · rw [eq_of_certify h, length_canonical]

theorem length_of_liftFn {p : Params} {m l : Poly} (h : liftFn p m = some l) : l.length = p.n := by
  unfold liftFn at h
  split at h
  · split at h
    · cases h; exact length_ofCoeffs _ _
    · split at h
      · cases h
      · cases h; exact length_ofCoeffs _ _
  · cases h

theorem length_of_sampIidFn {p : Params} {bs : List Byte} {c : Poly} (h : sampIidFn p bs = some c) : c.length = p.n := by
  unfold sampIidFn at h
  dsimp only at h
  split at h
  · cases h
  · cases h; exact length_ofCoeffs _ _

theorem length_of_sampFwFn {p : Params} {bs : List Byte} {c : Poly} (h : sampFwFn p bs = some c) : c.length = p.n := by
  unfold sampFwFn at h
  split at h
  · cases h
  · cases h; exact length_ofCoeffs _ _

theorem length_of_sampBiFn {p : Params} {bs : List Byte} {c : Poly} (h : sampBiFn p bs = some c) : c.length = p.n := by
  unfold sampBiFn at h
  split at h
  · cases h
  · cases h; exact length_ofCoeffs _ _

/-- The words of a polynomial that may be UNSPEC as a whole are N words either way. -/
theorem length_wordsOrUnspec {n : Nat} {v : Option Poly} (h : ∀ a, v = some a → a.length = n) :
    (wordsOrUnspec n (v.map toWords)).length = n := by
  cases v with
  | none => simp
  | some a => simp [h a rfl]

/-! ### Byte strings -/

@[simp] theorem length_packqFn (p : Params) (c : Poly) : (packqFn p c).length = p.packqBytes := by simp [packqFn]

@[simp] theorem length_pack3Fn (p : Params) (t : List (Option Int)) : (pack3Fn p t).length = p.pack3Bytes := by
  simp [pack3Fn]

@[simp] theorem length_known (bs : List Byte) : (known bs).length = bs.length := by simp [known]

@[simp] theorem length_unspecBytes (n : Nat) : (unspecBytes n).length = n := by simp [unspecBytes]

@[simp] theorem length_encFn (p : Params) (r m : Poly) (pk : List Byte) : (encFn p r m pk).length = p.ctBytes := by
  unfold encFn
  split <;> simp [Params.ctBytes]

/-- The keys have the sizes of R9, whether or not the inverses exist. -/
theorem length_keysOf (p : Params) (u v : Poly) :
    (keysOf p u v).1.length = p.pkBytes ∧ (keysOf p u v).2.length = p.skBytes := by
  unfold keysOf
  cases invF3 p u <;> cases invGF p u v <;> simp [Params.pkBytes, Params.skBytes] <;> omega

theorem length_of_keypairFn {p : Params} {seed : List Byte} {pk sk : List (Option Byte)}
    (h : keypairFn p seed = some (pk, sk)) : pk.length = p.pkBytes ∧ sk.length = p.skBytes := by
  unfold keypairFn at h
  split at h
  · cases h
  · next u v _ =>
    have hk : keysOf p u v = (pk, sk) := Option.some.inj h
    simpa [hk] using length_keysOf p u v

theorem length_of_decFn {p : Params} {ct sk : List Byte} {rm : List (Option Byte)} {failed : Bool}
    (h : decFn p ct sk = some (rm, failed)) : rm.length = p.rmBytes := by
  unfold decFn at h
  split at h
  · cases h
    simp [Params.rmBytes]; omega
  · cases h

/-! ### DEC in a build of the spec -/

theorem coeff_ofCoeffs {n k : Nat} (g : Nat → Int) (h : k < n) : coeff (ofCoeffs n g) k = g k := by
  simp [coeff, ofCoeffs, h]

/-- The message that DEC recovers is in T3 (R232): it is a result of MUL3. -/
theorem inT3_recoverM (p : Params) (ct sk : List Byte) : inT3 p.n (recoverM p ct sk) = true := by
  simp only [inT3, List.all_eq_true, List.mem_range, Bool.and_eq_true, decide_eq_true_eq]
  intro k hk
  rw [recoverM, mul3Fn, phi, coeff_ofCoeffs _ hk]
  omega

/-- N is no multiple of 3 in a BI build of the spec (R8). -/
theorem n_mod_three_of_bi {p : Params} (h : p.wf = true) (hb : p.family = .bi) : p.n % 3 ≠ 0 := by
  simp only [Params.wf, hb, Bool.and_eq_true, decide_eq_true_eq] at h
  exact h.2

/-- In a build of the spec every message in T3 has a lift (R156). -/
theorem liftFn_isSome {p : Params} (h : p.wf = true) {m : Poly} (hm : inT3 p.n m = true) : ∃ l, liftFn p m = some l := by
  unfold liftFn
  rw [if_pos hm]
  split
  · exact ⟨_, rfl⟩
  · exact ⟨_, if_neg (n_mod_three_of_bi h ‹_›)⟩

/-- DEC has a result in every build of the spec (R230, R232). -/
theorem decFn_isSome {p : Params} (h : p.wf = true) (ct sk : List Byte) : (decFn p ct sk).isSome = true := by
  obtain ⟨l, hl⟩ := liftFn_isSome h (inT3_recoverM p ct sk)
  simp [decFn, recoverR, hl]

end Sys2Proof.Machine
end

section
/-! SUPPORT. What a completion does, said once for the commands that write a slot and once for those that write BUF:
the outputs depend on the build and the latched command alone (R36), and go to the destinations of R93. -/

namespace Sys2Proof.Machine

/-! ### Writes to several regions of BUF -/

/-- Outputs to BUF: where each starts, and its bytes. -/
abbrev Outputs := List (Bus × List (Option Byte))

/-- `MemWrite` of each output in turn, so that later ones win where two overlap (R225). -/
def State.writeAll (s : State) : Outputs → State
  | [] => s
  | o :: outs => (s.writeBufDrawn o.1.toNat o.2).writeAll outs

/-- The length of every output, with where it starts. -/
def Outputs.places (outs : Outputs) : List (Bus × Nat) := outs.map fun o => (o.1, o.2.length)

/-- The places lie in BUF (R32). -/
def placesFit (p : Params) (places : List (Bus × Nat)) : Bool :=
  places.all fun o => decide (o.1.toNat + o.2 ≤ p.bufBytes)

/-- The index is in none of the places. -/
def Outside (a : Nat) (places : List (Bus × Nat)) : Prop := ∀ o ∈ places, a < o.1.toNat ∨ o.1.toNat + o.2 ≤ a

/-- Writes to BUF change BUF and the counter of free values only. -/
theorem State.writeAll_frame (s : State) (outs : Outputs) :
    s.writeAll outs = { s with buf := (s.writeAll outs).buf, draws := (s.writeAll outs).draws } := by
  induction outs generalizing s with
  | nil => rfl
  | cons o outs ih => exact ih (s.writeBufDrawn o.1.toNat o.2)

theorem State.byteAt_writeAll_of_outside {s : State} {outs : Outputs} {a : Nat} (h : Outside a outs.places) :
    (s.writeAll outs).byteAt a = s.byteAt a := by
  induction outs generalizing s with
  | nil => rfl
  | cons o outs ih =>
    obtain ⟨ho, hrest⟩ := List.forall_mem_cons.1 h
    rw [State.writeAll, ih hrest, State.byteAt_writeBufDrawn, if_neg (by dsimp only at ho; omega)]

/-- Two states with the same counter get the same bytes at every index of the places, and stay alike where they were. -/
theorem State.byteAt_writeAll_congr {s t : State} (hdraws : t.draws = s.draws) (outs : Outputs) {a : Nat}
    (h : t.byteAt a = s.byteAt a ∨ ¬ Outside a outs.places) :
    (t.writeAll outs).byteAt a = (s.writeAll outs).byteAt a := by
  induction outs generalizing s t with
  | nil => exact h.resolve_right fun hn => hn fun o ho => absurd ho (List.not_mem_nil)
  | cons o outs ih =>
    refine ih (by simp [hdraws]) ?_
    simp only [State.byteAt_writeBufDrawn, hdraws]
    split
    · exact .inl rfl
    · next hout =>
      refine h.imp_right fun hn hall => hn (List.forall_mem_cons.2 ⟨?_, hall⟩)
      dsimp only
      omega

/-- Writes to places in BUF keep BUF in canonical form. -/
theorem State.writeAll_buf_wfBelow {s : State} {outs : Outputs} {bound : Nat} (h : Memory.wfBelow (α := Byte) s.buf bound)
    (hfit : ∀ o ∈ outs.places, o.1.toNat + o.2 ≤ bound) : Memory.wfBelow (α := Byte) (s.writeAll outs).buf bound := by
  induction outs generalizing s with
  | nil => exact h
  | cons o outs ih =>
    obtain ⟨ho, hrest⟩ := List.forall_mem_cons.1 hfit
    exact ih (by simpa using Memory.writeList_wfBelow h _ _ (by simpa using ho)) hrest

/-! ### The two forms of a completion -/

/-- The error codes that a completion of the command can end with (R265). -/
def MayEndWith (i : Instr) (e : ErrCode) : Prop :=
  e = .ok ∨ (e = .sampleExhausted ∧ ((∃ d, i = .sampiid d ∨ i = .sampfw d ∨ i = .sampbi d) ∨ i = .keypair))

/-- P[d] is written, with `k` free values drawn, and the command retires. -/
def State.finishSlot (s : State) (d : SlotIx) (ws : List (Option Word)) (k : Nat) (e : ErrCode) : State :=
  ((s.writeSlot d (drawnWords s.draws ws)).advance k).retire e

/-- BUF is written and the command retires; RESULT.FAIL is left or set. -/
def State.finishBuf (s : State) (outs : Outputs) (e : ErrCode) (failed : Option Bool) : State :=
  { (s.writeAll outs).retire e with fail := failed.getD s.fail }

/-- In every state of the build in which the command is in flight with this latch, its completion writes the N words `ws` to
P[d] and ends with the code `e`, or stops because there is no slot d. -/
def CompletesSlot (i : Instr) (d : SlotIx) (p : Params) (f : Flight) (ws : List (Option Word)) (k : Nat) (e : ErrCode) :
    Prop :=
  ws.length = p.n ∧ MayEndWith i e ∧ ∀ s : State, s.params = p → s.flight = some f →
    exec i s = if d.toNat < 8 then .next (s.finishSlot d ws k e) else .fault .noSuchSlot

/-- The output regions of a command at its latched offsets (R93). -/
def outputPlaces (p : Params) (f : Flight) (i : Instr) : List (Bus × Nat) :=
  ((regions p i).filter (·.out)).map fun g => (f.boff g.reg, g.len)

/-- In every state of the build in which the command is in flight with this latch, its completion writes the outputs `outs`
to its output regions, ends with the code `e` and, for DEC, sets RESULT.FAIL, or stops because a region is not in BUF. -/
def CompletesBuf (i : Instr) (p : Params) (f : Flight) (outs : Outputs) (e : ErrCode) (failed : Option Bool) : Prop :=
  outs.places = outputPlaces p f i ∧ MayEndWith i e ∧ (failed.isSome ↔ i = .dec) ∧
    ∀ s : State, s.params = p → s.flight = some f →
      exec i s = if placesFit p outs.places then .next (s.finishBuf outs e failed) else .fault .outsideBuf

/-! ### The commands that write a slot -/

theorem completesSlot_of_known {i : Instr} {d : SlotIx} {p : Params} {f : Flight} (ws : List Word) (hlen : ws.length = p.n)
    (hexec : ∀ s : State, s.params = p → s.flight = some f → exec i s = completeSlot s d ws) :
    ∃ ws k e, CompletesSlot i d p f ws k e :=
  ⟨ws.map some, 0, .ok, by simpa using hlen, .inl rfl, fun s hp hf => by
    rw [hexec s hp hf, completeSlot, State.finishSlot, drawnWords_map_some]; rfl⟩

theorem completesSlot_of_drawn {i : Instr} {d : SlotIx} {p : Params} {f : Flight} (ws : List (Option Word)) (e : ErrCode)
    (hlen : ws.length = p.n) (he : MayEndWith i e)
    (hexec : ∀ s : State, s.params = p → s.flight = some f → exec i s = completeSlotDrawn s d ws e) :
    ∃ ws k e, CompletesSlot i d p f ws k e :=
  ⟨ws, ws.length, e, hlen, he, fun s hp hf => by rw [hexec s hp hf]; rfl⟩

theorem completesSlot_of_sample {i : Instr} {d : SlotIx} {p : Params} {f : Flight} (c : Option Poly)
    (hlen : ∀ a, c = some a → a.length = p.n) (hi : i = .sampiid d ∨ i = .sampfw d ∨ i = .sampbi d)
    (hexec : ∀ s : State, s.params = p → s.flight = some f → exec i s = completeSample s d c) :
    ∃ ws k e, CompletesSlot i d p f ws k e := by
  cases c with
  | some a =>
    exact completesSlot_of_drawn (wordsOrUnspec p.n (some (toWords a))) .ok (by simp [hlen]) (.inl rfl)
      fun s hp hf => by rw [hexec s hp hf, ← hp]; rfl
  | none =>
    exact completesSlot_of_drawn (wordsOrUnspec p.n none) .sampleExhausted (by simp) (.inr ⟨rfl, .inl ⟨d, hi⟩⟩)
      fun s hp hf => by rw [hexec s hp hf, ← hp]; rfl

/-- The completion of each of the fifteen commands with a destination slot has the one form. -/
theorem completesSlot_of_destSlot {i : Instr} {d : SlotIx} (hd : destSlot i = some d) (p : Params) (f : Flight) :
    ∃ ws k e, CompletesSlot i d p f ws k e := by
  cases i with
  | packq | pack3 | keypair | enc | dec => cases hd
  | mulq d' a b withPhi =>
    cases hd
    refine completesSlot_of_known (toWords (if withPhi then mulqPhiFn p (f.polyA p.n) (f.polyB p.n)
      else mulqFn p (f.polyA p.n) (f.polyB p.n))) (by cases withPhi <;> simp) fun s hp hf => hp ▸ whileInFlight_of hf _
  | mul3 =>
    cases hd
    exact completesSlot_of_known (toWords (mul3Fn p (f.polyA p.n) (f.polyB p.n))) (by simp)
      fun s hp hf => hp ▸ whileInFlight_of hf _
  | rqtos3 =>
    cases hd
    exact completesSlot_of_known (toWords (rqToS3 p (f.polyA p.n))) (by simp) fun s hp hf => hp ▸ whileInFlight_of hf _
  | unpackq d' last =>
    cases hd
    exact completesSlot_of_known (toWords (unpackqFn p last f.in0)) (by simp) fun s hp hf => hp ▸ whileInFlight_of hf _
  | unpack3 =>
    cases hd
    exact completesSlot_of_known (toWords (unpack3Fn p f.in0)) (by simp) fun s hp hf => hp ▸ whileInFlight_of hf _
  | inv2 d' a ring =>
    cases hd
    exact completesSlot_of_drawn (wordsOrUnspec p.n ((invPrime p.n 2 ring (f.polyA p.n)).map toWords)) .ok
      (length_wordsOrUnspec fun _ => length_of_invPrime) (.inl rfl) fun s hp hf => hp ▸ whileInFlight_of hf _
  | invq d' a ring =>
    cases hd
    exact completesSlot_of_drawn (wordsOrUnspec p.n ((invQ p ring (f.polyA p.n)).map toWords)) .ok
      (length_wordsOrUnspec fun _ => length_of_invQ) (.inl rfl) fun s hp hf => hp ▸ whileInFlight_of hf _
  | inv3 d' a ring =>
    cases hd
    exact completesSlot_of_drawn (wordsOrUnspec p.n ((invPrime p.n 3 ring (f.polyA p.n)).map toWords)) .ok
      (length_wordsOrUnspec fun _ => length_of_invPrime) (.inl rfl) fun s hp hf => hp ▸ whileInFlight_of hf _
  | lift =>
    cases hd
    exact completesSlot_of_drawn (wordsOrUnspec p.n ((liftFn p (f.polyA p.n)).map toWords)) .ok
      (length_wordsOrUnspec fun _ => length_of_liftFn) (.inl rfl) fun s hp hf => hp ▸ whileInFlight_of hf _
  | z3tozq =>
    cases hd
    exact completesSlot_of_drawn (convertedWords (convertEach p.n (z3ToZq p) (f.polyA p.n))) .ok (by simp) (.inl rfl)
      fun s hp hf => hp ▸ whileInFlight_of hf _
  | zqtoz3 =>
    cases hd
    exact completesSlot_of_drawn (convertedWords (convertEach p.n (zqToZ3 p) (f.polyA p.n))) .ok (by simp) (.inl rfl)
      fun s hp hf => hp ▸ whileInFlight_of hf _
  | zqtos =>
    cases hd
    exact completesSlot_of_drawn (convertedWords (convertEach p.n (zqToS p) (f.polyA p.n))) .ok (by simp) (.inl rfl)
      fun s hp hf => hp ▸ whileInFlight_of hf _
  | sampiid =>
    cases hd
    exact completesSlot_of_sample (sampIidFn p f.in0) (fun _ => length_of_sampIidFn) (.inl rfl)
      fun s hp hf => hp ▸ whileInFlight_of hf _
  | sampfw =>
    cases hd
    exact completesSlot_of_sample (sampFwFn p f.in0) (fun _ => length_of_sampFwFn) (.inr (.inl rfl))
      fun s hp hf => hp ▸ whileInFlight_of hf _
  | sampbi =>
    cases hd
    exact completesSlot_of_sample (sampBiFn p f.in0) (fun _ => length_of_sampBiFn) (.inr (.inr rfl))
      fun s hp hf => hp ▸ whileInFlight_of hf _

/-! ### The commands that write BUF -/

theorem storeBytes_eq (s : State) (off : Bus) (bs : List (Option Byte)) (k : State → Result) :
    storeBytes s off bs k =
      if placesFit s.params (Outputs.places [(off, bs)]) then k (s.writeAll [(off, bs)]) else .fault .outsideBuf := by
  simp [storeBytes, placesFit, Outputs.places, State.writeAll]

/-- Of two regions the first is stored first, and neither where one is not in BUF. -/
theorem storeBytes_storeBytes_eq (s : State) (off off' : Bus) (bs bs' : List (Option Byte)) (k : State → Result) :
    (storeBytes s off bs fun t => storeBytes t off' bs' k) =
      if placesFit s.params (Outputs.places [(off, bs), (off', bs')]) then k (s.writeAll [(off, bs), (off', bs')])
      else .fault .outsideBuf := by
  simp [storeBytes, placesFit, Outputs.places, State.writeAll, ite_and]

theorem completesBuf_of_store {i : Instr} {p : Params} {f : Flight} (off : Bus) (bs : List (Option Byte))
    (hplaces : [(off, bs.length)] = outputPlaces p f i) (hi : i ≠ .dec)
    (hexec : ∀ s : State, s.params = p → s.flight = some f →
      exec i s = storeBytes s off bs fun t => .next (t.retire .ok)) :
    ∃ outs e failed, CompletesBuf i p f outs e failed :=
  ⟨[(off, bs)], .ok, none, hplaces, .inl rfl, by simpa using hi, fun s hp hf => by
    rw [hexec s hp hf, storeBytes_eq, hp]; rfl⟩

theorem completesBuf_of_keys {p : Params} {f : Flight} (pk sk : List (Option Byte)) (e : ErrCode)
    (hpk : pk.length = p.pkBytes) (hsk : sk.length = p.skBytes) (he : MayEndWith .keypair e)
    (hexec : ∀ s : State, s.params = p → s.flight = some f → exec .keypair s =
      storeBytes s f.boff1 pk fun t => storeBytes t f.boff2 sk fun u => .next (u.retire e)) :
    ∃ outs e failed, CompletesBuf .keypair p f outs e failed :=
  ⟨[(f.boff1, pk), (f.boff2, sk)], e, none, by simp [Outputs.places, outputPlaces, regions, hpk, hsk, Flight.boff], he,
    by simp, fun s hp hf => by rw [hexec s hp hf, storeBytes_storeBytes_eq, hp]; rfl⟩

theorem completesBuf_keypair (p : Params) (f : Flight) : ∃ outs e failed, CompletesBuf .keypair p f outs e failed := by
  cases hk : keypairFn p f.in0 with
  | some keys =>
    obtain ⟨hpk, hsk⟩ := length_of_keypairFn hk
    exact completesBuf_of_keys keys.1 keys.2 .ok hpk hsk (.inl rfl) fun s hp hf => by
      simp only [exec, execKeypair, whileInFlight_of hf, hp, hk]
  | none =>
    exact completesBuf_of_keys (unspecBytes p.pkBytes) (unspecBytes p.skBytes) .sampleExhausted (length_unspecBytes _)
      (length_unspecBytes _) (.inr ⟨rfl, .inr rfl⟩) fun s hp hf => by
      simp only [exec, execKeypair, whileInFlight_of hf, hp, hk]

theorem completesBuf_dec {p : Params} (f : Flight) {rm : List (Option Byte)} {failed : Bool}
    (h : decFn p f.in0 f.in1 = some (rm, failed)) : CompletesBuf .dec p f [(f.boff2, rm)] .ok (some failed) :=
  ⟨by simp [Outputs.places, outputPlaces, regions, Flight.boff, length_of_decFn h], .inl rfl, by simp, fun s hp hf => by
    simp only [exec, execDec, whileInFlight_of hf, hp, h, storeBytes_eq]; rfl⟩

/-- The completion of each of the five commands without a destination slot has the one form, but for DEC in a build outside
the spec. -/
theorem completesBuf_of_destSlot {i : Instr} (hd : destSlot i = none) (p : Params) (f : Flight) :
    (∃ outs e failed, CompletesBuf i p f outs e failed) ∨
    (p.wf = false ∧ ∀ s : State, s.params = p → s.flight = some f → exec i s = .fault .buildOutsideSpec) := by
  cases i with
  | packq a =>
    exact .inl (completesBuf_of_store f.boff0 ((packqFn p (f.polyA p.n)).map some)
      (by simp [outputPlaces, regions, Flight.boff]) (by simp) fun s hp hf => hp ▸ whileInFlight_of hf _)
  | pack3 a =>
    exact .inl (completesBuf_of_store f.boff0 (pack3Fn p (convertEach p.n tritOf (f.polyA p.n)))
      (by simp [outputPlaces, regions, Flight.boff]) (by simp) fun s hp hf => hp ▸ whileInFlight_of hf _)
  | enc a b =>
    exact .inl (completesBuf_of_store f.boff1 (encFn p (f.polyA p.n) (f.polyB p.n) f.in0)
      (by simp [outputPlaces, regions, Flight.boff]) (by simp) fun s hp hf => hp ▸ whileInFlight_of hf _)
  | keypair => exact .inl (completesBuf_keypair p f)
  | dec =>
    cases h : decFn p f.in0 f.in1 with
    | some r => exact .inl ⟨_, _, _, completesBuf_dec f h⟩
    | none =>
      refine .inr ⟨?_, fun s hp hf => by simp [exec, execDec, whileInFlight_of hf, hp, h]⟩
      by_contra hwf
      simpa [h] using decFn_isSome (Bool.eq_true_of_not_eq_false hwf) f.in0 f.in1
  | _ => cases hd

end Sys2Proof.Machine
end

section
/-! SUPPORT. What follows for every completion: what it changes, what it keeps, and when it stops. -/

namespace Sys2Proof.Machine

open Sys2Proof.Claims

/-! ### What the two forms change -/

/-- A completion to a slot changes the slots, the counter of free values, BUSY, DONE and ERR only. -/
theorem State.finishSlot_frame (s : State) (d : SlotIx) (ws : List (Option Word)) (k : Nat) (e : ErrCode) :
    s.finishSlot d ws k e = { s with slots := (s.finishSlot d ws k e).slots, draws := s.draws + k, flight := none,
                                     done := true, err := e } := by
  unfold State.finishSlot State.writeSlot
  split <;> rfl

/-- A completion to BUF changes BUF, the counter of free values, BUSY, DONE, ERR and RESULT.FAIL only. -/
theorem State.finishBuf_frame (s : State) (outs : Outputs) (e : ErrCode) (failed : Option Bool) :
    s.finishBuf outs e failed = { s with buf := (s.writeAll outs).buf, draws := (s.writeAll outs).draws, flight := none,
                                         done := true, err := e, fail := failed.getD s.fail } := by
  rw [State.finishBuf, State.writeAll_frame]
  rfl

theorem State.coeffAt_finishSlot (s : State) {d : SlotIx} (h : d.toNat < 8) (ws : List (Option Word)) (k : Nat) (e : ErrCode)
    (x : SlotIx) (j : Nat) :
    (s.finishSlot d ws k e).coeffAt x j =
      if x = d ∧ j < ws.length then (drawnWords s.draws ws)[j]? else s.coeffAt x j := by
  have hw : (s.finishSlot d ws k e).coeffAt x j = (s.writeSlot d (drawnWords s.draws ws)).coeffAt x j := rfl
  rw [hw, State.coeffAt_writeSlot s h, drawnWords_length]

theorem State.byteAt_finishSlot (s : State) (d : SlotIx) (ws : List (Option Word)) (k : Nat) (e : ErrCode) (a : Nat) :
    (s.finishSlot d ws k e).byteAt a = s.byteAt a := by
  rw [State.finishSlot_frame]; rfl

theorem State.coeffAt_finishBuf (s : State) (outs : Outputs) (e : ErrCode) (failed : Option Bool) (x : SlotIx) (j : Nat) :
    (s.finishBuf outs e failed).coeffAt x j = s.coeffAt x j := by
  rw [State.finishBuf_frame]; rfl

theorem State.byteAt_finishBuf (s : State) (outs : Outputs) (e : ErrCode) (failed : Option Bool) (a : Nat) :
    (s.finishBuf outs e failed).byteAt a = (s.writeAll outs).byteAt a := rfl

/-! ### The answers of `exec` -/

/-- With no command in flight no completion is enabled (R41). -/
theorem exec_of_idle {s : State} (h : s.flight = none) (i : Instr) : exec i s = .fault .engineIdle := by
  have idle (k : Flight → Result) : whileInFlight s k = .fault .engineIdle := by simp [whileInFlight, h]
  cases i <;> exact idle _

/-- A completion that answers has one of the two forms. -/
theorem exec_next {i : Instr} {s t : State} (h : exec i s = .next t) :
    ∃ f, s.flight = some f ∧
      ((∃ d ws k e, destSlot i = some d ∧ CompletesSlot i d s.params f ws k e ∧ d.toNat < 8 ∧
        t = s.finishSlot d ws k e) ∨
      (∃ outs e failed, destSlot i = none ∧ CompletesBuf i s.params f outs e failed ∧
        placesFit s.params outs.places = true ∧ t = s.finishBuf outs e failed)) := by
  cases hf : s.flight with
  | none => rw [exec_of_idle hf] at h; cases h
  | some f =>
    refine ⟨f, rfl, ?_⟩
    cases hd : destSlot i with
    | some d =>
      obtain ⟨ws, k, e, hc⟩ := completesSlot_of_destSlot hd s.params f
      rw [hc.2.2 s rfl hf] at h
      split at h
      · exact .inl ⟨d, ws, k, e, rfl, hc, ‹_›, (Host.Outcome.next.inj h).symm⟩
      · cases h
    | none =>
      obtain ⟨outs, e, failed, hc⟩ | ⟨-, hstop⟩ := completesBuf_of_destSlot hd s.params f
      · rw [hc.2.2.2 s rfl hf] at h
        split at h
        · exact .inr ⟨outs, e, failed, rfl, hc, ‹_›, (Host.Outcome.next.inj h).symm⟩
        · cases h
      · rw [hstop s rfl hf] at h; cases h

/-- Every completion retires its command, with an error code it may end with, and keeps what no completion changes (R41). -/
theorem exec_next_retires {i : Instr} {s t : State} (h : exec i s = .next t) :
    Kept s t ∧ t.flight = none ∧ t.done = true ∧ MayEndWith i t.err := by
  obtain ⟨f, -, ⟨d, ws, k, e, -, ⟨-, he, -⟩, -, rfl⟩ | ⟨outs, e, failed, -, ⟨-, he, -⟩, -, rfl⟩⟩ := exec_next h
  · rw [State.finishSlot_frame]
    exact ⟨⟨rfl, rfl, rfl, rfl, rfl, rfl, rfl, rfl, rfl⟩, rfl, rfl, he⟩
  · rw [State.finishBuf_frame]
    exact ⟨⟨rfl, rfl, rfl, rfl, rfl, rfl, rfl, rfl, rfl⟩, rfl, rfl, he⟩

/-- A command with a destination slot has no output region (R93). -/
theorem out_eq_false_of_destSlot {i : Instr} {d : SlotIx} (hd : destSlot i = some d) (p : Params) :
    ∀ g ∈ regions p i, g.out = false := by
  cases i with
  | packq | pack3 | keypair | enc | dec => cases hd
  | _ => simp [regions]

/-- Each output region is one of the output places. -/
theorem mem_outputPlaces {p : Params} {i : Instr} {f : Flight} {g : Region} (hg : g ∈ regions p i) (hout : g.out = true) :
    (f.boff g.reg, g.len) ∈ outputPlaces p f i :=
  List.mem_map.2 ⟨g, List.mem_filter.2 ⟨hg, hout⟩, rfl⟩

/-- An index outside every output region is outside the output places. -/
theorem outside_outputPlaces {p : Params} {i : Instr} {f : Flight} {a : Nat}
    (h : ∀ g ∈ regions p i, g.out = true → a < (f.boff g.reg).toNat ∨ (f.boff g.reg).toNat + g.len ≤ a) :
    Outside a (outputPlaces p f i) := by
  intro o ho
  obtain ⟨g, hg, rfl⟩ := List.mem_map.1 ho
  exact h g (List.mem_filter.1 hg).1 (List.mem_filter.1 hg).2

end Sys2Proof.Machine

namespace Sys2Proof.Proofs

open Sys2Proof Sys2Proof.Machine Sys2Proof.Claims

/-- Settles O38: a completion to a slot writes N words of that slot. -/
theorem slotCommandsFrame : Obligations.SlotCommandsFrame := by
  intro i d s t hd h
  obtain ⟨f, -, ⟨d', ws, k, e, hd', ⟨hlen, -⟩, hlt, rfl⟩ | ⟨_, _, _, hd', -⟩⟩ := exec_next h
  · cases hd.symm.trans hd'
    refine ⟨(exec_next_retires h).1, by rw [State.finishSlot_frame], s.byteAt_finishSlot d ws k e, fun x j hx => ?_⟩
    rw [State.coeffAt_finishSlot s hlt, if_neg]
    rintro ⟨rfl, hj⟩
    exact hx.elim (absurd rfl) fun hn => absurd (hlen ▸ hj) (Nat.not_lt.2 hn)
  · cases hd.symm.trans hd'

/-- Settles O39: a completion to BUF writes the output places. -/
theorem bufCommandsFrame : Obligations.BufCommandsFrame := by
  intro i f s t hd hf h
  obtain ⟨f', hf', ⟨_, _, _, _, hd', -⟩ | ⟨outs, e, failed, -, ⟨hplaces, -, hfail, -⟩, -, rfl⟩⟩ := exec_next h
  · cases hd.symm.trans hd'
  · cases hf.symm.trans hf'
    refine ⟨(exec_next_retires h).1, fun hi => ?_, s.coeffAt_finishBuf outs e failed, fun a ha => ?_⟩
    · have : failed = none := by simpa using mt hfail.1 hi
      rw [State.finishBuf_frame, this]; rfl
    · rw [State.byteAt_finishBuf, State.byteAt_writeAll_of_outside (hplaces ▸ outside_outputPlaces ha)]

/-- Settles O40: the checks that a completion makes of its destination. -/
theorem unacceptedFormsStop : Obligations.UnacceptedFormsStop := by
  refine fun i s => ⟨fun hidle => exec_of_idle hidle i, fun f hf => ⟨fun d hd h8 => ?_, ?_⟩⟩
  · obtain ⟨ws, k, e, -, -, hexec⟩ := completesSlot_of_destSlot hd s.params f
    rw [hexec s rfl hf, if_neg (Nat.not_lt.2 h8)]
  · rintro hwf ⟨g, hg, hout, hbeyond⟩
    cases hd : destSlot i with
    | some d => exact absurd hout (by simp [out_eq_false_of_destSlot hd _ g hg])
    | none =>
      obtain ⟨outs, e, failed, hplaces, -, -, hexec⟩ | ⟨hwf', -⟩ := completesBuf_of_destSlot hd s.params f
      · rw [hexec s rfl hf, if_neg]
        intro hfit
        have := List.all_eq_true.1 hfit _ (hplaces ▸ mem_outputPlaces hg hout)
        simp only [decide_eq_true_eq] at this
        omega
      · simp [hwf] at hwf'

/-- Settles O41: the outputs of a completion are the same in every state of the build with the latch in flight. -/
theorem completionReadsOnlySnapshot : Obligations.CompletionReadsOnlySnapshot := by
  intro i s₁ s₂ t₁ f hp hdraws hf₁ hf₂ h
  obtain ⟨f', hf', ⟨d, ws, k, e, hd, ⟨hlen, -, hexec⟩, hlt, rfl⟩ |
    ⟨outs, e, failed, hd, ⟨hplaces, -, hfail, hexec⟩, hfit, rfl⟩⟩ := exec_next h <;> cases hf₁.symm.trans hf'
  · refine ⟨s₂.finishSlot d ws k e, by rw [hexec s₂ hp.symm hf₂, if_pos hlt], rfl, ?_, fun d' hd' j hj => ?_,
      fun g hg hout => ?_⟩
    · rintro rfl; cases hd
    · cases hd.symm.trans hd'
      simp only [State.coeffAt_finishSlot _ hlt, hlen, hj, and_self, if_true, hdraws]
    · exact absurd hout (by simp [out_eq_false_of_destSlot hd _ g hg])
  · refine ⟨s₂.finishBuf outs e failed, by rw [hexec s₂ hp.symm hf₂, if_pos hfit], rfl, fun hi => ?_, fun d' hd' => ?_,
      fun g hg hout j hj => ?_⟩
    · obtain ⟨b, hb⟩ := Option.isSome_iff_exists.1 (hfail.2 hi)
      simp only [State.finishBuf, hb, Option.getD_some]
    · cases hd.symm.trans hd'
    · rw [State.byteAt_finishBuf, State.byteAt_finishBuf]
      refine State.byteAt_writeAll_congr hdraws.symm outs (.inr fun hall => ?_)
      have := hall _ (hplaces ▸ mem_outputPlaces hg hout)
      dsimp only at this
      omega

end Sys2Proof.Proofs
end

section
/-! SUPPORT. What a host transaction and a reset can do, said once, and how the invariant of the machine fares: each
operation that a step is made of keeps it. -/

namespace Sys2Proof.Machine

open Sys2Proof.Claims

/-! ### The answers of the host's transactions -/

/-- A read that answers changes the returned word only (R67). -/
theorem hostRead_next {s t : State} {off : Offset} (h : hostRead s off = .next t) : ∃ w, t = s.returns w := by
  unfold hostRead at h
  repeat' split at h
  all_goals cases h
  all_goals exact ⟨_, rfl⟩

/-- A read stops only where a location was never written (R43) or a window is read while busy (R311). -/
theorem hostRead_stops {s : State} {off : Offset} : (∀ r, hostRead s off = .fault r → r.fromSpec = true) ∧
    ∀ r, hostRead s off ≠ .refused r := by
  unfold hostRead
  repeat' split
  all_goals simp [Fault.fromSpec]

/-- The four byte lanes of a write to a word of the BUF window (R64). -/
def laneWrites (s : State) (a : Nat) (w : Bus) : State :=
  laneWrite (laneWrite (laneWrite (laneWrite s a (lane w 0)) (a + 1) (lane w 1)) (a + 2) (lane w 2)) (a + 3) (lane w 3)

/-- What a write to the register block can do: submit a command, change flags or registers, or reset softly. -/
theorem writeRegister_next {s t : State} {o : Nat} {w : Bus} (h : writeRegister s o w = .next t) :
    writeCmd s w = .next t ∨ t = writeStatus s w ∨ t = writeCtrl s w ∨
      ∃ b0 b1 b2, t = { s with boff0 := b0, boff1 := b1, boff2 := b2 } := by
  unfold writeRegister at h
  split at h
  · exact .inl h
  all_goals cases h
  · exact .inr (.inl rfl)
  · exact .inr (.inr (.inl rfl))
  all_goals exact .inr (.inr (.inr ⟨_, _, _, rfl⟩))

/-- What a write can do: write a register, or, with no command in flight, a coefficient or the lanes of a BUF word, or
nothing. -/
theorem hostWrite_next {s t : State} {off : Offset} {w : Bus} (h : hostWrite s off w = .next t) :
    (∃ o, writeRegister s o w = .next t) ∨
    (s.flight = none ∧ ∃ d k, k < s.params.n ∧ t = s.writeCoeff d k (w.extractLsb' 0 16)) ∨
    (s.flight = none ∧ ∃ a, t = laneWrites s a w) ∨ t = s := by
  unfold hostWrite at h
  split at h
  · exact .inl ⟨_, h⟩
  · split at h
    · cases h
    · next hbusy =>
      split at h
      · exact .inr (.inl ⟨by simpa [State.busy] using hbusy, _, _, ‹_›, (Host.Outcome.next.inj h).symm⟩)
      · exact .inr (.inr (.inr (Host.Outcome.next.inj h).symm))
  · split at h
    · cases h
    · next hbusy =>
      exact .inr (.inr (.inl ⟨by simpa [State.busy] using hbusy, _, (Host.Outcome.next.inj h).symm⟩))
  · exact .inr (.inr (.inr (Host.Outcome.next.inj h).symm))

/-- A submission stops only where the input set holds a location that was never written (R43). -/
theorem submit_stops {s : State} {w : Bus} : (∀ r, submit s w = .fault r → r.fromSpec = true) ∧
    ∀ r, submit s w ≠ .refused r := by
  unfold submit
  repeat' split
  all_goals simp [Fault.fromSpec]

/-- A write stops only as a submission does, or where a window is written while busy (R311). -/
theorem hostWrite_stops {s : State} {off : Offset} {w : Bus} :
    (∀ r, hostWrite s off w = .fault r → r.fromSpec = true) ∧ ∀ r, hostWrite s off w ≠ .refused r := by
  have hreg (o : Nat) : (∀ r, writeRegister s o w = .fault r → r.fromSpec = true) ∧
      ∀ r, writeRegister s o w ≠ .refused r := by
    unfold writeRegister
    split
    · unfold writeCmd
      split
      · simp
      · exact submit_stops
    all_goals simp
  unfold hostWrite
  split
  · exact hreg _
  all_goals repeat' split
  all_goals simp [Fault.fromSpec]

/-! ### Memories inside their bounds -/

theorem State.setSlot_memWf {s : State} (h : s.memWf) (d : SlotIx) {m : Memory Word} (hm : Memory.wfBelow m s.params.n) :
    (s.setSlot d m).memWf := by
  refine ⟨fun m' hm' => ?_, h.2⟩
  rw [State.setSlot_slots, Vector.toList_setIfInBounds] at hm'
  obtain hold | rfl := List.mem_or_eq_of_mem_set hm'
  · exact h.1 m' hold
  · exact hm

theorem State.slot_wfBelow {s : State} (h : s.memWf) {d : SlotIx} {m : Memory Word} (hm : s.slot d = some m) :
    Memory.wfBelow m s.params.n :=
  h.1 m (Vector.mem_toList_iff.2 (Vector.mem_of_getElem? hm))

theorem State.writeSlot_memWf {s : State} (h : s.memWf) (d : SlotIx) {ws : List Word} (hws : ws.length = s.params.n) :
    (s.writeSlot d ws).memWf := by
  unfold State.writeSlot
  split
  · exact State.setSlot_memWf h d (Memory.writeList_wfBelow (State.slot_wfBelow h ‹_›) 0 ws (by omega))
  · exact h

theorem State.writeCoeff_memWf {s : State} (h : s.memWf) (d : SlotIx) {k : Nat} (hk : k < s.params.n) (w : Word) :
    (s.writeCoeff d k w).memWf := by
  unfold State.writeCoeff
  split
  · exact State.setSlot_memWf h d (Memory.write_wfBelow (State.slot_wfBelow h ‹_›) hk w)
  · exact h

theorem laneWrite_memWf {s : State} (h : s.memWf) (a : Nat) (b : Byte) : (laneWrite s a b).memWf := by
  unfold laneWrite
  split
  · exact ⟨h.1, Memory.write_wfBelow h.2 ‹_› b⟩
  · exact h

/-- A write to the BUF window changes BUF only. -/
theorem laneWrite_frame (s : State) (a : Nat) (b : Byte) : laneWrite s a b = { s with buf := (laneWrite s a b).buf } := by
  unfold laneWrite
  split <;> rfl

theorem laneWrites_frame (s : State) (a : Nat) (w : Bus) : laneWrites s a w = { s with buf := (laneWrites s a w).buf } := by
  unfold laneWrites
  iterate 4 rw [laneWrite_frame]

theorem State.writeAll_memWf {s : State} (h : s.memWf) {outs : Outputs} (hfit : placesFit s.params outs.places = true) :
    (s.writeAll outs).memWf := by
  have hbuf := State.writeAll_buf_wfBelow h.2 fun o ho => of_decide_eq_true (List.all_eq_true.1 hfit o ho)
  rw [State.writeAll_frame]
  exact ⟨h.1, hbuf⟩

/-- A completion keeps the memories in form. -/
theorem exec_next_memWf {i : Instr} {s t : State} (hs : s.memWf) (h : exec i s = .next t) : t.memWf := by
  obtain ⟨f, -, ⟨d, ws, k, e, -, ⟨hlen, -⟩, -, rfl⟩ | ⟨outs, e, failed, -, -, hfit, rfl⟩⟩ := exec_next h
  · exact State.writeSlot_memWf hs d (by simpa using hlen)
  · exact State.writeAll_memWf hs hfit

/-! ### Reset -/

/-- The bytes that an abort leaves in the output regions (R303). -/
def unspecOutputs (f : Flight) (rs : List Region) : Outputs :=
  (rs.filter (·.out)).map fun g => (f.boff g.reg, List.replicate g.len none)

theorem unspecRegions_eq (f : Flight) (rs : List Region) (s : State) :
    unspecRegions f rs s = s.writeAll (unspecOutputs f rs) := by
  induction rs generalizing s with
  | nil => rfl
  | cons g rest ih =>
    rw [unspecRegions, ih, unspecOutputs, unspecOutputs, List.filter_cons]
    split <;> rfl

theorem unspecOutputs_places (p : Params) (f : Flight) (i : Instr) :
    Outputs.places (unspecOutputs f (regions p i)) = outputPlaces p f i := by
  simp [Outputs.places, unspecOutputs, outputPlaces]

/-- The regions of a valid latch lie in BUF. -/
theorem placesFit_of_inRange {p : Params} {f : Flight} {i : Instr} (h : f.inRange p i = true) :
    placesFit p (outputPlaces p f i) = true := by
  refine List.all_eq_true.2 fun o ho => ?_
  obtain ⟨g, hg, rfl⟩ := List.mem_map.1 ho
  exact List.all_eq_true.1 h g (List.mem_filter.1 hg).1

/-- What a valid latch is: a command that the submission checks pass, and a snapshot of the size of its input set. -/
theorem Flight.valid_iff {p : Params} {f : Flight} : f.valid p = true ↔
    ∃ i, decode f.cmd = .ok i ∧ i.wf = true ∧ f.inRange p i = true ∧
      f.inA.length = slotInputLength p (srcSlotA i) ∧ f.inB.length = slotInputLength p (srcSlotB i) ∧
      f.in0.length = regionInputLength p i .b0 ∧ f.in1.length = regionInputLength p i .b1 := by
  unfold Flight.valid
  cases decode f.cmd with
  | error _ => simp
  | ok i => simp [and_assoc]

/-- An abort changes slots, BUF and the counter of free values only (R303). -/
theorem spoilDestinations_frame (f : Flight) (s : State) :
    spoilDestinations f s = { s with slots := (spoilDestinations f s).slots, buf := (spoilDestinations f s).buf,
                                     draws := (spoilDestinations f s).draws } := by
  unfold spoilDestinations
  split
  · rfl
  · dsimp only
    rw [unspecRegions_eq, State.writeAll_frame]
    split
    · unfold State.writeSlotDrawn State.writeSlot
      split <;> rfl
    · rfl

theorem spoilDestinations_memWf {s : State} (h : s.memWf) {f : Flight} (hf : f.valid s.params = true) :
    (spoilDestinations f s).memWf := by
  obtain ⟨i, hi, -, hrange, -⟩ := Flight.valid_iff.1 hf
  have hfit : placesFit s.params (unspecOutputs f (regions s.params i)).places = true := by
    rw [unspecOutputs_places]; exact placesFit_of_inRange hrange
  simp only [spoilDestinations, hi, unspecRegions_eq]
  split
  · refine State.writeAll_memWf ?_ (by simpa using hfit)
    exact State.writeSlot_memWf h _ (by simp)
  · exact State.writeAll_memWf h hfit

/-- A reset that keeps the memories changes slots and BUF by its abort only, and puts every register at its value of R42. -/
theorem resetKeepingMemory_frame (s : State) :
    resetKeepingMemory s =
      { s with slots := (abortFlight s).slots, buf := (abortFlight s).buf, draws := (abortFlight s).draws, flight := none,
               done := false, haz := false, err := .ok, ie := false, fail := false, boff0 := 0, boff1 := 0, boff2 := 0,
               errcmd := 0 } := by
  unfold resetKeepingMemory abortFlight
  cases hf : s.flight with
  | none => simp [resetRegisters, hf]
  | some f => dsimp only; rw [spoilDestinations_frame]; rfl

/-! ### The invariant -/

/-- With no command in flight the invariant is about the build and the memories. -/
theorem State.inv_of_idle {s : State} (hwf : s.params.wf = true) (hmem : s.memWf) (hidle : s.flight = none) : s.Inv :=
  ⟨hwf, hmem, fun f hf => by simp [hidle] at hf⟩

theorem exec_next_inv {i : Instr} {s t : State} (hs : s.Inv) (h : exec i s = .next t) : t.Inv := by
  obtain ⟨hkept, hidle, -⟩ := exec_next_retires h
  exact State.inv_of_idle (hkept.1 ▸ hs.1) (exec_next_memWf hs.2.1 h) hidle

theorem engineTurn_next_inv {s t : State} (hs : s.Inv) (h : engineTurn s = .next t) : t.Inv := by
  obtain ⟨-, rfl⟩ | ⟨f, i, -, -, hexec⟩ := engineTurn_next h
  · exact hs
  · exact exec_next_inv hs hexec

theorem resetPower_inv {s : State} (hs : s.Inv) : (resetPower s).Inv :=
  State.inv_of_idle hs.1 (State.powerOn_memWf s.params s.inputs) rfl

theorem resetKeepingMemory_inv {s : State} (hs : s.Inv) : (resetKeepingMemory s).Inv := by
  obtain ⟨hwf, hmem, hflight⟩ := hs
  refine State.inv_of_idle (by rw [resetKeepingMemory_frame]; exact hwf) ?_ (by rw [resetKeepingMemory_frame])
  show (abortFlight s).memWf
  unfold abortFlight
  split
  · exact spoilDestinations_memWf hmem (hflight _ ‹_›).1
  · exact hmem

/-- The snapshot of a source slot has its length (R36). -/
theorem captureSlot_length {s : State} {a : Option SlotIx} {ws : List Word} (h : captureSlot s a = some ws) :
    ws.length = slotInputLength s.params a := by
  cases a with
  | none => cases h; rfl
  | some a =>
    change s.readSlot a = some ws at h
    unfold State.readSlot at h
    split at h
    · exact (Memory.readList_eq_some.1 h).1
    · cases h

/-- The snapshot of an input region has its length (R36). -/
theorem captureRegion_length {s : State} {i : Instr} {r : BoffReg} {bs : List Byte} (h : captureRegion s i r = some bs) :
    bs.length = regionInputLength s.params i r := by
  unfold captureRegion at h
  unfold regionInputLength
  cases hr : inputRegion s.params i r with
  | none =>
    simp only [hr, Option.some.injEq] at h
    rw [← h]
    rfl
  | some g =>
    simp only [hr] at h
    exact (Memory.readList_eq_some.1 h).1

/-- What acceptance latches is valid (R261, R263). -/
theorem latch_valid {s : State} {w : Bus} {i : Instr} {inA inB : List Word} {in0 in1 : List Byte}
    (hi : checkCommand s w = .ok i) (hA : captureSlot s (srcSlotA i) = some inA) (hB : captureSlot s (srcSlotB i) = some inB)
    (h0 : captureRegion s i .b0 = some in0) (h1 : captureRegion s i .b1 = some in1) :
    (s.latch w inA inB in0 in1).valid s.params = true := by
  obtain ⟨hdec, hwf, hrange⟩ := checkCommand_ok hi
  have hboff (r : BoffReg) : (s.latch w inA inB in0 in1).boff r = s.boff r := by cases r <;> rfl
  refine Flight.valid_iff.2 ⟨i, hdec, hwf, ?_, captureSlot_length hA, captureSlot_length hB, captureRegion_length h0,
    captureRegion_length h1⟩
  simpa only [Flight.inRange, rangesOk, hboff] using hrange

theorem writeCmd_next_inv {s t : State} {w : Bus} (hs : s.Inv) (h : writeCmd s w = .next t) : t.Inv := by
  obtain ⟨hwf, hmem, hflight⟩ := hs
  unfold writeCmd at h
  split at h
  · cases h
    exact ⟨hwf, hmem, hflight⟩
  · next hbusy =>
    obtain ⟨e, -, rfl⟩ | ⟨i, inA, inB, in0, in1, hi, hA, hB, h0, h1, rfl⟩ := submit_next h
    · exact State.inv_of_idle hwf hmem (by simpa [State.busy] using hbusy)
    · refine ⟨hwf, hmem, fun f hf => ?_⟩
      cases hf
      exact ⟨latch_valid hi hA hB h0 h1, rfl, rfl, rfl⟩

theorem writeCtrl_inv {s : State} (hs : s.Inv) (w : Bus) : (writeCtrl s w).Inv := by
  unfold writeCtrl
  split
  · exact resetKeepingMemory_inv hs
  · exact hs

theorem writeStatus_inv {s : State} (hs : s.Inv) (w : Bus) : (writeStatus s w).Inv := by
  obtain ⟨hwf, hmem, hflight⟩ := hs
  refine ⟨hwf, hmem, fun f hf => ?_⟩
  obtain ⟨hvalid, hdone, herr⟩ := hflight f hf
  exact ⟨hvalid, by simp [writeStatus, hdone], herr⟩

theorem hostWrite_next_inv {s t : State} {off : Offset} {w : Bus} (hs : s.Inv) (h : hostWrite s off w = .next t) :
    t.Inv := by
  obtain ⟨o, hreg⟩ | ⟨hidle, d, k, hk, rfl⟩ | ⟨hidle, a, rfl⟩ | rfl := hostWrite_next h
  · obtain hcmd | rfl | rfl | ⟨b0, b1, b2, rfl⟩ := writeRegister_next hreg
    · exact writeCmd_next_inv hs hcmd
    · exact writeStatus_inv hs w
    · exact writeCtrl_inv hs w
    · exact hs
  · exact State.inv_of_idle (by simpa using hs.1) (State.writeCoeff_memWf hs.2.1 d hk _) (by simpa using hidle)
  · refine State.inv_of_idle (by rw [laneWrites_frame]; exact hs.1) ?_ (by rw [laneWrites_frame]; exact hidle)
    exact laneWrite_memWf (laneWrite_memWf (laneWrite_memWf (laneWrite_memWf hs.2.1 _ _) _ _) _ _) _ _
  · exact hs

theorem hostEvent_next_inv {s t : State} {ev : Event} (hs : s.Inv) (h : hostEvent s (engineTurn s) ev = .next t) :
    t.Inv := by
  cases ev with
  | read size off =>
    obtain ⟨-, -, h⟩ := aligned32_next h
    obtain ⟨w, rfl⟩ := hostRead_next h
    exact hs
  | write size off w =>
    obtain ⟨-, -, h⟩ := aligned32_next h
    exact hostWrite_next_inv hs h
  | hardwareReset => cases h; exact resetKeepingMemory_inv hs
  | powerOnReset => cases h; exact resetPower_inv hs
  | engine => exact engineTurn_next_inv hs h

/-- Well-formedness of every command is that of its slot fields (R91). -/
theorem wf_eq_fieldsOk : ∀ i : Instr, Laws.SlotFields.Statement i
  | .mulq d a b phi => Laws.SlotFields.mulq d a b phi
  | .mul3 d a b => Laws.SlotFields.mul3 d a b
  | .inv2 d a ring => Laws.SlotFields.inv2 d a ring
  | .invq d a ring => Laws.SlotFields.invq d a ring
  | .inv3 d a ring => Laws.SlotFields.inv3 d a ring
  | .z3tozq d a => Laws.SlotFields.z3tozq d a
  | .zqtoz3 d a => Laws.SlotFields.zqtoz3 d a
  | .zqtos d a => Laws.SlotFields.zqtos d a
  | .rqtos3 d a => Laws.SlotFields.rqtos3 d a
  | .lift d a => Laws.SlotFields.lift d a
  | .packq a => Laws.SlotFields.packq a
  | .unpackq d last => Laws.SlotFields.unpackq d last
  | .pack3 a => Laws.SlotFields.pack3 a
  | .unpack3 d => Laws.SlotFields.unpack3 d
  | .sampiid d => Laws.SlotFields.sampiid d
  | .sampfw d => Laws.SlotFields.sampfw d
  | .sampbi d => Laws.SlotFields.sampbi d
  | .keypair => Laws.SlotFields.keypair
  | .enc a b => Laws.SlotFields.enc a b
  | .dec => Laws.SlotFields.dec

/-- A well-formed command has valid fields. -/
theorem wf_iff_fieldsOk {i : Instr} : i.wf = true ↔ Laws.SlotFields.fieldOk (destSlot i) = true ∧
    Laws.SlotFields.fieldOk (srcSlotA i) = true ∧ Laws.SlotFields.fieldOk (srcSlotB i) = true := by
  rw [wf_eq_fieldsOk i, Bool.and_eq_true, Bool.and_eq_true, and_assoc]

/-- A slot field that is valid and used names one of the eight slots (R91). -/
theorem lt_of_fieldOk {x : Option SlotIx} {d : SlotIx} (h : Laws.SlotFields.fieldOk x = true) (hd : x = some d) :
    d.toNat < 8 := by
  subst hd
  exact of_decide_eq_true h

/-- The submission checks exclude every stop of a completion: in a state that meets the invariant the command in flight
completes. -/
theorem exec_of_inv {s : State} {f : Flight} (hs : s.Inv) (hf : s.flight = some f) :
    ∃ i t, decode f.cmd = .ok i ∧ exec i s = .next t := by
  obtain ⟨hwf, -, hflight⟩ := hs
  obtain ⟨i, hi, hiwf, hrange, -⟩ := Flight.valid_iff.1 (hflight f hf).1
  refine ⟨i, ?_⟩
  cases hd : destSlot i with
  | some d =>
    obtain ⟨ws, k, e, -, -, hexec⟩ := completesSlot_of_destSlot hd s.params f
    exact ⟨_, hi, by rw [hexec s rfl hf, if_pos (lt_of_fieldOk (wf_iff_fieldsOk.1 hiwf).1 hd)]⟩
  | none =>
    obtain ⟨outs, e, failed, hplaces, -, -, hexec⟩ | ⟨hwf', -⟩ := completesBuf_of_destSlot hd s.params f
    · exact ⟨_, hi, by rw [hexec s rfl hf, if_pos (hplaces ▸ placesFit_of_inRange hrange)]⟩
    · simp [hwf] at hwf'

theorem engineTurn_of_inv {s : State} (hs : s.Inv) : ∃ t, engineTurn s = .next t := by
  unfold engineTurn
  cases hf : s.flight with
  | none => exact ⟨s, rfl⟩
  | some f =>
    obtain ⟨i, t, hi, hexec⟩ := exec_of_inv hs hf
    exact ⟨t, by simp only [hi, hexec]⟩

/-- An access stops as its transaction does, or because it is misaligned or narrow (R66). -/
theorem aligned32_stops {size : AccessSize} {off : Offset} {a : Result}
    (h : (∀ r, a = .fault r → r.fromSpec = true) ∧ ∀ r, a ≠ .refused r) :
    (∀ r, aligned32 size off a = .fault r → r.fromSpec = true) ∧
      ∀ r, aligned32 size off a = .refused r → r.fromSpec = true := by
  unfold aligned32
  repeat' split
  · exact ⟨h.1, fun r hr => absurd hr (h.2 r)⟩
  all_goals simp [Refusal.fromSpec]

theorem hostEvent_stops {s : State} (hs : s.Inv) (ev : Event) :
    (∀ r, hostEvent s (engineTurn s) ev = .fault r → r.fromSpec = true) ∧
      ∀ r, hostEvent s (engineTurn s) ev = .refused r → r.fromSpec = true := by
  cases ev with
  | read size off => exact aligned32_stops hostRead_stops
  | write size off w => exact aligned32_stops hostWrite_stops
  | hardwareReset => simp [hostEvent]
  | powerOnReset => simp [hostEvent]
  | engine =>
    obtain ⟨t, ht⟩ := engineTurn_of_inv hs
    simp [hostEvent, ht]

end Sys2Proof.Machine

namespace Sys2Proof.Proofs

open Sys2Proof Sys2Proof.Machine Sys2Proof.Claims

/-- Settles O55: the engine's turn and every event keep the invariant. -/
theorem stepKeepsInvariant : Obligations.StepKeepsInvariant := by
  intro s t hs h
  obtain ⟨-, h⟩ | ⟨ev, rest, -, h⟩ := step_cases h
  · exact engineTurn_next_inv hs h
  · exact hostEvent_next_inv (s := { s with inputs := rest }) hs h

/-- Settles O57: the command in flight passed the submission checks, and they exclude every stop of a completion. -/
theorem acceptedCommandCompletes : Obligations.AcceptedCommandCompletes := by
  intro s f hs hf
  obtain ⟨i, t, hi, hexec⟩ := exec_of_inv hs hf
  obtain ⟨-, hidle, hdone, herr⟩ := exec_next_retires hexec
  exact ⟨t, i, hi, by simp only [engineTurn, hf, hi, hexec], hidle, hdone, herr⟩

/-- Settles O58: the engine's turn never stops, and a host event stops as its transaction does. -/
theorem stopsOnlyWhereSpecSays : Obligations.StopsOnlyWhereSpecSays := by
  intro s hs
  cases hin : s.inputs with
  | nil =>
    obtain ⟨t, ht⟩ := engineTurn_of_inv hs
    simp [step, hin, ht]
  | cons ev rest =>
    simp only [step, hin]
    exact hostEvent_stops (s := { s with inputs := rest }) hs ev

end Sys2Proof.Proofs
end

section
/-! SUPPORT. The registers as the host sees them, and the links between a step and the transaction or the command it runs. -/

namespace Sys2Proof.Machine

open Sys2Proof.Claims

/-! ### Register words as numbers -/

/-- Two fields side by side as a number. -/
theorem toNat_append_eq_add {m n : Nat} (x : BitVec m) (y : BitVec n) :
    (x ++ y).toNat = x.toNat * 2 ^ n + y.toNat := by
  rw [BitVec.toNat_append, ← Nat.shiftLeft_add_eq_or_of_lt y.isLt, Nat.shiftLeft_eq]

/-- The bounds of R7 that make the build's parameters fit their registers. -/
theorem params_bounds {p : Params} (h : p.wf = true) :
    (3 ≤ p.n ∧ p.n ≤ 2048) ∧ (2 ≤ p.logq ∧ p.logq ≤ 16) ∧ p.weight ≤ p.n - 1 ∧ p.iidBytes < 2 ^ 32 ∧ p.ftBytes < 2 ^ 32 ∧
      p.bufBytes ≤ 65536 := by
  simp only [Params.wf, Bool.and_eq_true, decide_eq_true_eq] at h
  obtain ⟨⟨⟨⟨⟨⟨⟨⟨⟨⟨⟨⟨⟨hn, hn'⟩, hq⟩, hq'⟩, -⟩, hw⟩, -⟩, hi⟩, -⟩, -⟩, hft⟩, -⟩, hb⟩, -⟩ := h
  exact ⟨⟨hn, hn'⟩, ⟨hq, hq'⟩, hw, hi, hft, hb⟩

/-- STATUS as a number: each flag at its bit and the error code from bit 8 on (R30). -/
theorem State.statusWord_toNat (s : State) :
    s.statusWord.toNat = s.busy.toNat + 2 * s.done.toNat + 4 * s.haz.toNat + 256 * s.err.code.toNat := by
  simp only [State.statusWord, toNat_append_eq_add, BitVec.toNat_ofBool, BitVec.toNat_ofNat]
  omega

/-- A single flag in bit 0 as a word (R31, R33). -/
theorem zero_append_ofBool (b : Bool) : (0#31 ++ BitVec.ofBool b : BitVec (31 + 1)) = if b then 1 else 0 := by
  cases b <;> rfl

/-! ### The register block -/

/-- A read of the register block returns the register's word. -/
theorem hostRead_register {s : State} {off : Offset} (o : Nat) (h : target off = .register o) :
    hostRead s off = .next { s with readData := some (readRegister s o) } := by
  simp only [hostRead, h, State.returns]

/-- A write to the register block is that of the register. -/
theorem hostWrite_register {s : State} {off : Offset} (o : Nat) {w : Bus} (h : target off = .register o) :
    hostWrite s off w = writeRegister s o w := by
  simp only [hostWrite, h]

/-- The first eight registers are read-only (R21 to R28). -/
theorem hostWrite_readOnly {s : State} {off : Offset} (w : Bus) (h : off.toNat < 0x20) : hostWrite s off w = .next s := by
  rw [hostWrite_register off.toNat (if_pos (by omega))]
  unfold writeRegister
  split
  case h_7 => rfl
  all_goals omega

/-! ### No step changes the build (R313) -/

theorem writeCmd_next_params {s t : State} {w : Bus} (h : writeCmd s w = .next t) : t.params = s.params := by
  unfold writeCmd at h
  split at h
  · cases h; rfl
  · obtain ⟨e, -, rfl⟩ | ⟨i, inA, inB, in0, in1, -, -, -, -, -, rfl⟩ := submit_next h <;> rfl

theorem writeCtrl_params (s : State) (w : Bus) : (writeCtrl s w).params = s.params := by
  unfold writeCtrl
  split
  · rw [resetKeepingMemory_frame]
  · rfl

theorem hostWrite_next_params {s t : State} {off : Offset} {w : Bus} (h : hostWrite s off w = .next t) :
    t.params = s.params := by
  obtain ⟨o, hreg⟩ | ⟨-, d, k, -, rfl⟩ | ⟨-, a, rfl⟩ | rfl := hostWrite_next h
  · obtain hcmd | rfl | rfl | ⟨b0, b1, b2, rfl⟩ := writeRegister_next hreg
    · exact writeCmd_next_params hcmd
    · rfl
    · exact writeCtrl_params s w
    · rfl
  · simp
  · rw [laneWrites_frame]
  · rfl

theorem engineTurn_next_params {s t : State} (h : engineTurn s = .next t) : t.params = s.params := by
  obtain ⟨-, rfl⟩ | ⟨f, i, -, -, hexec⟩ := engineTurn_next h
  · rfl
  · exact (exec_next_retires hexec).1.1

theorem hostEvent_next_params {s t : State} {ev : Event} (h : hostEvent s (engineTurn s) ev = .next t) :
    t.params = s.params := by
  cases ev with
  | read size off =>
    obtain ⟨-, -, h⟩ := aligned32_next h
    obtain ⟨w, rfl⟩ := hostRead_next h
    rfl
  | write size off w =>
    obtain ⟨-, -, h⟩ := aligned32_next h
    exact hostWrite_next_params h
  | hardwareReset => cases h; rw [resetKeepingMemory_frame]
  | powerOnReset => cases h; rfl
  | engine => exact engineTurn_next_params h

theorem step_next_params {s t : State} (h : step s = .next t) : t.params = s.params := by
  obtain ⟨-, h⟩ | ⟨ev, rest, -, h⟩ := step_cases h
  · exact engineTurn_next_params h
  · exact hostEvent_next_params (s := { s with inputs := rest }) h

/-! ### After power-on -/

theorem coeffAt_of_powerOn (p : Params) (inputs : List Event) (d : SlotIx) (k : Nat) :
    (State.powerOn p inputs).coeffAt d k = none := by
  unfold State.coeffAt State.slot
  split
  · next m hm =>
    obtain ⟨hd, rfl⟩ := Vector.getElem?_eq_some_iff.1 hm
    simp [State.powerOn]
  · rfl

theorem powerOn_inv {p : Params} (h : p.wf = true) (inputs : List Event) : (State.powerOn p inputs).Inv :=
  State.inv_of_idle h (State.powerOn_memWf p inputs) rfl

end Sys2Proof.Machine

namespace Sys2Proof.Proofs

open Sys2Proof Sys2Proof.Machine Sys2Proof.Claims

/-- Settles O7: the equations of `step` and of the engine's turn. -/
theorem stepRunsNextEvent : Obligations.StepRunsNextEvent := by
  refine fun s => ⟨fun f i hf hi => ⟨fun hin => ?_, fun rest hin => ?_⟩, fun hidle => ⟨fun hin => ?_, fun rest hin => ?_⟩,
    fun off w rest hoff => ⟨fun hin => ?_, fun hin => ?_⟩⟩
  · simp only [step, hin, engineTurn, hf, hi]
  · simp only [step, hin, hostEvent, engineTurn, hf, hi]
  · simp only [step, hin, engineTurn, hidle]
  · simp only [step, hin, hostEvent, engineTurn, hidle]
  · simp only [step, hin, hostEvent, aligned32, hoff, if_true]
  · simp only [step, hin, hostEvent, aligned32, hoff, if_true]

/-- Settles O42: the parameters of a build of the spec fit their register fields. -/
theorem parameterRegisters : Obligations.ParameterRegisters := by
  intro s hwf
  obtain ⟨⟨-, hn⟩, ⟨-, hq⟩, hw, hi, hft, hb⟩ := params_bounds hwf
  have hread (o : Nat) (off : Offset) (h : target off = .register o) (x : Nat) (hx : (readRegister s o).toNat = x) :
      ∃ w : Bus, hostRead s off = .next { s with readData := some w } ∧ w.toNat = x := ⟨_, hostRead_register o h, hx⟩
  refine ⟨⟨_, hostRead_register 0x00 rfl, rfl⟩, hread 0x04 _ rfl _ ?_, hread 0x08 _ rfl _ ?_, hread 0x0C _ rfl _ ?_,
    hread 0x10 _ rfl _ ?_, hread 0x14 _ rfl _ ?_, hread 0x18 _ rfl _ ?_, hread 0x1C _ rfl _ ?_,
    fun off w h => hostWrite_readOnly w h, fun t h => step_next_params h⟩
  all_goals simp only [readRegister, toNat_append_eq_add, BitVec.toNat_ofNat, BitVec.toNat_ofBool]
  case refine_4 => cases s.params.family <;> rfl
  all_goals omega

/-- Settles O43: STATUS is the number of its fields. -/
theorem statusReadAndClear : Obligations.StatusReadAndClear := by
  refine fun s => ⟨⟨s.statusWord, hostRead_register 0x24 rfl, ?_⟩, fun w => ?_⟩
  · have hbit (b : Bool) (k : Nat) : (if b then k else 0) = k * b.toNat := by cases b <;> simp
    have hcode : s.err.code.toNat = (match s.err with
        | .ok => 0 | .illegalOpcode => 1 | .reservedField => 2 | .badSlot => 3 | .badRange => 4
        | .sampleExhausted => 5) := by
      cases s.err <;> rfl
    rw [State.statusWord_toNat, hcode, hbit, hbit, hbit, one_mul]
    rfl
  · have hclear (b c : Bool) : (b && !c) = if c then false else b := by cases c <;> simp
    rw [hostWrite_register 0x24 rfl, ← hclear, ← hclear]
    rfl

/-- Settles O44: each register by its word. -/
theorem controlRegisters : Obligations.ControlRegisters := by
  refine fun s w => ⟨hostRead_register 0x20 rfl, ?_, fun hsrst => ?_, ?_, hostWrite_register 0x2C rfl,
    hostRead_register 0x3C rfl, hostWrite_register 0x3C rfl, hostRead_register 0x30 rfl, hostWrite_register 0x30 rfl,
    hostRead_register 0x34 rfl, hostWrite_register 0x34 rfl, hostRead_register 0x38 rfl, hostWrite_register 0x38 rfl⟩
  · rw [hostRead_register 0x28 rfl, ← zero_append_ofBool]; rfl
  · rw [hostWrite_register 0x28 rfl, writeRegister, writeCtrl, hsrst]; rfl
  · rw [hostRead_register 0x2C rfl, ← zero_append_ofBool]; rfl

/-- Settles O50: irq is a function of IE and DONE, and a completion sets DONE and keeps IE. -/
theorem irqFollowsDone : Obligations.IrqFollowsDone := by
  refine fun s => ⟨Bool.and_eq_true_iff, fun hs hbusy => ?_, fun i t h => ?_⟩
  · obtain ⟨f, hf⟩ := Option.ne_none_iff_exists'.1 hbusy
    obtain ⟨-, hdone, -⟩ := hs.2.2 f hf
    simp [State.irq, hdone]
  · obtain ⟨⟨-, -, hie, -⟩, -, hdone, -⟩ := exec_next_retires h
    simp [State.irq, hie, hdone]

/-- Settles O53: a power-on reset is the state of R42 and R43, with the model's own counter and lists kept. -/
theorem powerOnLeavesNothingWritten : Obligations.PowerOnLeavesNothingWritten :=
  fun s rest => ⟨⟨resetPower { s with inputs := rest }, rfl, rfl, rfl, rfl, rfl, rfl, rfl, rfl, rfl, rfl, rfl, rfl, rfl,
    coeffAt_of_powerOn s.params rest, fun _ => rfl⟩, coeffAt_of_powerOn _ _, fun _ => rfl, rfl, rfl⟩

/-- Settles O54: nothing is in flight after power-on, and the memories are empty. -/
theorem invariantAtReset : Obligations.InvariantAtReset :=
  ⟨fun _ inputs h => powerOn_inv h inputs, powerOn_inv (by decide) []⟩

end Sys2Proof.Proofs
end

section
/-! SUPPORT. The submission checks of R263 on the bits of the word: the fields of R90, the rows of R93, and what each row
reads and writes. -/

namespace Sys2Proof.Machine

open Sys2Proof.Claims

/-! ### The fields as bits -/

theorem toNat_extractLsb'_eq_bits (w : Bus) (lo width : Nat) : (w.extractLsb' lo width).toNat = bits w lo width := by
  rw [BitVec.extractLsb'_toNat, Nat.shiftRight_eq_div_pow, bits]

theorem bits_modeRest (w : Bus) : ((fieldMode w).extractLsb' 1 3).toNat = bits w 21 3 := by
  simp only [fieldMode, BitVec.extractLsb'_toNat, Nat.shiftRight_eq_div_pow, bits]
  omega

theorem bits_modeBit (w : Bus) : (modeBit w).toNat = bits w 20 1 := by
  simp only [modeBit, BitVec.getLsbD, bits, pow_one]
  rw [Nat.testBit_eq_decide_div_mod_eq]
  rcases Nat.mod_two_eq_zero_or_one (w.toNat / 2 ^ 20) with h | h <;> rw [h] <;> rfl

theorem slotFieldA_eq (w : Bus) : slotFieldA w = fieldA w := by
  apply BitVec.eq_of_toNat_eq
  rw [slotFieldA, fieldA, toNat_extractLsb'_eq_bits, BitVec.toNat_ofNat, bits]
  omega

theorem slotFieldB_eq (w : Bus) : slotFieldB w = fieldB w := by
  apply BitVec.eq_of_toNat_eq
  rw [slotFieldB, fieldB, toNat_extractLsb'_eq_bits, BitVec.toNat_ofNat, bits]
  omega

/-- Check 2 of R263 on the fields and on the bits. -/
theorem fieldsClear_iff {w : Bus} {d a b m : Bool} : fieldsClear w d a b m = true ↔ ¬ reservedBad w d a b m := by
  have hmode : modeBit w = false ↔ bits w 20 1 = 0 := by rw [← bits_modeBit]; cases modeBit w <;> simp
  have huse (use : Bool) (P : Prop) : (use = true ∨ P) ↔ (use = false → P) := by cases use <;> simp
  simp only [fieldsClear, reservedBad, Bool.and_eq_true, Bool.or_eq_true, decide_eq_true_eq, Bool.not_eq_true', hmode,
    ← BitVec.toNat_inj, bits_modeRest, fieldRsv, fieldD, fieldA, fieldB, toNat_extractLsb'_eq_bits, BitVec.toNat_ofNat,
    Nat.zero_mod, not_or, not_and, not_not, BitVec.ofNat_eq_ofNat, and_assoc, huse]

/-! ### The rows of R93 -/

/-- The number of an offset register. -/
def BoffReg.index : BoffReg → Nat
  | .b0 => 0
  | .b1 => 1
  | .b2 => 2

theorem boffN_index (s : State) (r : BoffReg) : boffN s r.index = (s.boff r).toNat := by cases r <;> rfl

/-- The command's operands are those of its row of R93, which uses D, A and B as told, with the slots that the word's fields
name and the regions of its OP. -/
structure RowCommand (w : Bus) (d a b : Bool) (i : Instr) : Prop where
  decodes : decode w = .ok i
  dest : destSlot i = if d then some (fieldD w) else none
  srcA : srcSlotA i = if a then some (fieldA w) else none
  srcB : srcSlotB i = if b then some (fieldB w) else none
  regions_eq : ∀ p, (regions p i).map (fun g => (g.reg.index, g.len)) = opRegions p (bits w 0 8)
  inputs_eq : ∀ p, ((regions p i).filter (!·.out)).map (fun g => (g.reg.index, g.len)) = opInputs p (bits w 0 8)

/-- A word with clear reserved fields in a row of R93 is a command of that row. -/
theorem rowCommand_of_opRow {w : Bus} {d a b m : Bool} (hrow : (bits w 0 8, d, a, b, m) ∈ opRows)
    (hclear : ¬ reservedBad w d a b m) : ∃ i, RowCommand w d a b i := by
  have hop : (fieldOp w).toNat = bits w 0 8 := toNat_extractLsb'_eq_bits w 0 8
  have hok (i : Instr) : row w d a b m i = .ok i := if_pos (fieldsClear_iff.2 hclear)
  simp only [opRows, List.mem_cons, Prod.mk.injEq, List.not_mem_nil, or_false] at hrow
  rcases hrow with h | h | h | h | h | h | h | h | h | h | h | h | h | h | h | h | h | h | h | h
  all_goals
    obtain ⟨h, rfl, rfl, rfl, rfl⟩ := h
    rw [h] at hop
    constructor
    constructor
    case decodes =>
      simp only [decode, hop]
      exact hok _
    case dest | srcA | srcB => rfl
    case regions_eq | inputs_eq => intro p; rw [h]; rfl

/-! ### The four checks -/

/-- A used slot field passes check 3 exactly when its bits name a slot. -/
theorem fieldOk_ite (use : Bool) (x : SlotIx) :
    Laws.SlotFields.fieldOk (if use then some x else none) = true ↔ ¬ (use = true ∧ 8 ≤ x.toNat) := by
  cases use <;> simp [Laws.SlotFields.fieldOk, SlotIx.valid]

/-- Check 3 of R263 on the command and on the bits. -/
theorem RowCommand.wf_iff {w : Bus} {d a b : Bool} {i : Instr} (hi : RowCommand w d a b i) :
    i.wf = true ↔ ¬ slotBad w d a b := by
  rw [wf_iff_fieldsOk, hi.dest, hi.srcA, hi.srcB, fieldOk_ite, fieldOk_ite, fieldOk_ite, fieldD, fieldA, fieldB,
    toNat_extractLsb'_eq_bits, toNat_extractLsb'_eq_bits, toNat_extractLsb'_eq_bits, slotBad, not_or, not_or]

/-- Check 4 of R263 on the command and on the bits. -/
theorem RowCommand.rangesOk_iff {w : Bus} {d a b : Bool} {i : Instr} (hi : RowCommand w d a b i) (s : State) :
    rangesOk s i = true ↔ ¬ rangeBad s w := by
  simp only [rangesOk, rangeBad, ← hi.regions_eq, List.all_eq_true, decide_eq_true_eq, List.mem_map, not_exists, not_and,
    not_lt]
  exact ⟨fun h o ⟨g, hg, ho⟩ => by rw [← ho, boffN_index]; exact h g hg,
    fun h g hg => by rw [← boffN_index]; exact h _ ⟨g, hg, rfl⟩⟩

/-- The checks answer the command that passes them. -/
theorem checkCommand_eq_ok {s : State} {w : Bus} {i : Instr} (hdec : decode w = .ok i) (hwf : i.wf = true)
    (hrange : rangesOk s i = true) : checkCommand s w = .ok i := by
  simp [checkCommand, hdec, hwf, hrange]

/-- A word that passes the checks on its bits is a command that the model's checks pass. -/
theorem checkCommand_of_passes {s : State} {w : Bus} {a b : Bool} (h : Passes s w a b) :
    ∃ d i, RowCommand w d a b i ∧ checkCommand s w = .ok i := by
  obtain ⟨d, m, hrow, hclear, hslot, hrange⟩ := h
  obtain ⟨i, hi⟩ := rowCommand_of_opRow hrow hclear
  exact ⟨d, i, hi, checkCommand_eq_ok hi.decodes (hi.wf_iff.2 hslot) ((hi.rangesOk_iff s).2 hrange)⟩

/-! ### The input set (R36, R43) -/

/-- Consecutive indices are read when each holds a value. -/
theorem Memory.readList_isSome {α : Type} {m : Memory α} {k n : Nat} :
    (Memory.readList m k n).isSome = true ↔ ∀ j < n, (Memory.read m (k + j)).isSome = true := by
  induction n generalizing k with
  | zero => simp [Memory.readList]
  | succ n ih =>
    rw [Nat.forall_lt_succ_left, Nat.add_zero, Memory.readList]
    simp only [← Nat.add_assoc, Nat.add_right_comm k _ 1, ← ih]
    cases Memory.read m k <;> cases Memory.readList m (k + 1) n <;> simp

/-- A slot is snapshotted when it is written. -/
theorem State.readSlot_isSome {s : State} {d : SlotIx} (hd : d.toNat < 8) :
    (s.readSlot d).isSome = true ↔ SlotWritten s d := by
  obtain ⟨m, hm⟩ := State.slot_isSome (s := s) hd
  simp only [State.readSlot, SlotWritten, State.coeffAt, hm, Memory.readList_isSome, Nat.zero_add]

/-- A source slot is snapshotted when the row does not use it or it is written. -/
theorem captureSlot_isSome {s : State} {use : Bool} {x : SlotIx} (hx : use = true → x.toNat < 8) :
    (captureSlot s (if use then some x else none)).isSome = true ↔ (use = true → SlotWritten s x) := by
  cases use with
  | false => simp [captureSlot]
  | true => exact (State.readSlot_isSome (hx rfl)).trans (by simp)

/-- A command has at most one input region at an offset register, and none at BOFF2 (R93). -/
theorem inputRegion_of_mem {p : Params} {i : Instr} :
    ∀ g ∈ regions p i, g.out = false → inputRegion p i g.reg = some g ∧ (g.reg = .b0 ∨ g.reg = .b1) := by
  cases i <;> simp [regions, inputRegion]

/-- The input region at a register is one of the command's. -/
theorem mem_of_inputRegion {p : Params} {i : Instr} {r : BoffReg} {g : Region} (h : inputRegion p i r = some g) :
    g ∈ regions p i ∧ g.out = false ∧ g.reg = r := by
  have := List.find?_some h
  simp only [Bool.and_eq_true, decide_eq_true_eq, Bool.not_eq_true'] at this
  exact ⟨List.mem_of_find?_eq_some h, this.2, this.1⟩

/-- The input region at a register is snapshotted when every byte of it is written. -/
theorem captureRegion_isSome {s : State} {i : Instr} {r : BoffReg} :
    (captureRegion s i r).isSome = true ↔
      ∀ g, inputRegion s.params i r = some g → ∀ j < g.len, (s.byteAt ((s.boff r).toNat + j)).isSome = true := by
  unfold captureRegion
  cases inputRegion s.params i r with
  | none => simp
  | some g => simp [State.readBuf, Memory.readList_isSome, State.byteAt]

/-- Both input regions are snapshotted when the regions of the word's row are written. -/
theorem RowCommand.captureRegions_isSome {w : Bus} {d a b : Bool} {i : Instr} (hi : RowCommand w d a b i) (s : State) :
    ((captureRegion s i .b0).isSome = true ∧ (captureRegion s i .b1).isSome = true) ↔ RegionsWritten s w := by
  have hregions : RegionsWritten s w ↔ ∀ g ∈ regions s.params i, g.out = false →
      ∀ j < g.len, (s.byteAt ((s.boff g.reg).toNat + j)).isSome = true := by
    simp only [RegionsWritten, ← hi.inputs_eq, List.mem_map, List.mem_filter, Bool.not_eq_true']
    exact ⟨fun h g hg hin => by rw [← boffN_index]; exact h _ ⟨g, ⟨hg, hin⟩, rfl⟩,
      fun h o ⟨g, ⟨hg, hin⟩, ho⟩ => by rw [← ho, boffN_index]; exact h g hg hin⟩
  rw [hregions, captureRegion_isSome, captureRegion_isSome]
  constructor
  · rintro ⟨h0, h1⟩ g hg hin
    obtain ⟨hfind, hreg | hreg⟩ := inputRegion_of_mem g hg hin
    · rw [hreg] at hfind ⊢; exact h0 g hfind
    · rw [hreg] at hfind ⊢; exact h1 g hfind
  · intro h
    have hat (r : BoffReg) (g : Region) (hfind : inputRegion s.params i r = some g) :
        ∀ j < g.len, (s.byteAt ((s.boff r).toNat + j)).isSome = true := by
      obtain ⟨hg, hin, rfl⟩ := mem_of_inputRegion hfind
      exact h g hg hin
    exact ⟨hat .b0, hat .b1⟩

/-- Both source slots are snapshotted when the slots of the word's row are written. -/
theorem RowCommand.captureSlots_isSome {w : Bus} {d a b : Bool} {i : Instr} (hi : RowCommand w d a b i)
    (hwf : i.wf = true) (s : State) :
    ((captureSlot s (srcSlotA i)).isSome = true ∧ (captureSlot s (srcSlotB i)).isSome = true) ↔ SlotsWritten s w a b := by
  obtain ⟨-, hA, hB⟩ := wf_iff_fieldsOk.1 hwf
  rw [SlotsWritten, slotFieldA_eq, slotFieldB_eq, hi.srcA, hi.srcB,
    captureSlot_isSome fun ha => lt_of_fieldOk hA (by rw [hi.srcA, ha]; rfl),
    captureSlot_isSome fun hb => lt_of_fieldOk hB (by rw [hi.srcB, hb]; rfl)]

/-! ### The write to CMD -/

/-- A bus write to CMD with no command in flight submits its word (R29). -/
theorem hostWrite_cmd_of_idle {s : State} (h : s.flight = none) (w : Bus) : hostWrite s 0x020 w = submit s w := by
  rw [hostWrite_register 0x20 rfl, writeRegister, writeCmd, State.busy, h]
  rfl

theorem submit_of_unwrittenSlot {s : State} {w : Bus} {i : Instr} (hi : checkCommand s w = .ok i)
    (h : ¬ ((captureSlot s (srcSlotA i)).isSome = true ∧ (captureSlot s (srcSlotB i)).isSome = true)) :
    submit s w = .fault .unwrittenCoeff := by
  unfold submit
  simp only [hi]
  split
  · simp_all
  · simp_all
  · rfl

theorem submit_of_unwrittenRegion {s : State} {w : Bus} {i : Instr} (hi : checkCommand s w = .ok i)
    (hslots : (captureSlot s (srcSlotA i)).isSome = true ∧ (captureSlot s (srcSlotB i)).isSome = true)
    (h : ¬ ((captureRegion s i .b0).isSome = true ∧ (captureRegion s i .b1).isSome = true)) :
    submit s w = .fault .unwrittenByte := by
  obtain ⟨⟨inA, hA⟩, inB, hB⟩ := hslots.imp Option.isSome_iff_exists.1 Option.isSome_iff_exists.1
  unfold submit
  simp only [hi, hA, hB]
  split
  · simp_all
  · rfl
  · simp_all

theorem submit_of_written {s : State} {w : Bus} {i : Instr} {inA inB : List Word} {in0 in1 : List Byte}
    (hi : checkCommand s w = .ok i) (hA : captureSlot s (srcSlotA i) = some inA) (hB : captureSlot s (srcSlotB i) = some inB)
    (h0 : captureRegion s i .b0 = some in0) (h1 : captureRegion s i .b1 = some in1) :
    submit s w = .next (s.accept (s.latch w inA inB in0 in1)) := by
  simp only [submit, hi, hA, hB, h0, h1]

end Sys2Proof.Machine

namespace Sys2Proof.Proofs

open Sys2Proof Sys2Proof.Machine Sys2Proof.Claims

/-- Settles O6: the word passes the model's checks, and the snapshot of its input set fails. -/
theorem unwrittenInputFaults : Obligations.UnwrittenInputFaults := by
  intro s w a b hidle hpass
  obtain ⟨d, i, hrow, hi⟩ := checkCommand_of_passes hpass
  obtain ⟨-, hwf, -⟩ := checkCommand_ok hi
  rw [hostWrite_cmd_of_idle hidle, ← hrow.captureSlots_isSome hwf s, ← hrow.captureRegions_isSome s]
  exact ⟨submit_of_unwrittenSlot hi, submit_of_unwrittenRegion hi⟩

end Sys2Proof.Proofs
end

section
/-! SUPPORT. The product in R_Q as a sum over index pairs (R13, R120, R121), and a MULQ command from its submission to its
completion. -/

namespace Sys2Proof.Machine

open Sys2Proof.Claims

/-! ### The product -/

theorem sumTo_eq_sum (n : Nat) (g : Nat → Int) : sumTo n g = ∑ i ∈ Finset.range n, g i := by
  induction n with
  | zero => rfl
  | succ n ih => simp [sumTo, List.range_succ, Finset.sum_range_succ, ← ih]

/-- For i and k below N, the one j below N with i + j ≡ k (mod N) is (k − i) mod N. -/
theorem add_mod_eq_iff {n i j k : Nat} (hi : i < n) (hj : j < n) (hk : k < n) :
    (i + j) % n = k ↔ (k + n - i) % n = j := by
  have hsum : (i + j) % n = if i + j < n then i + j else i + j - n := by
    split
    · exact Nat.mod_eq_of_lt ‹_›
    · rw [Nat.mod_eq_sub_mod (by omega), Nat.mod_eq_of_lt (by omega)]
  have hdiff : (k + n - i) % n = if k < i then k + n - i else k - i := by
    split
    · exact Nat.mod_eq_of_lt (by omega)
    · rw [Nat.mod_eq_sub_mod (by omega), Nat.mod_eq_of_lt (by omega)]; omega
  rw [hsum, hdiff]
  split <;> split <;> omega

/-- The cyclic convolution is the sum over all index pairs (R13). -/
theorem coeff_cyclicConv {n k : Nat} (hk : k < n) (a b : Poly) :
    coeff (cyclicConv n a b) k = cyc n (coeff a) (coeff b) k := by
  rw [cyclicConv, coeff_ofCoeffs _ hk, sumTo_eq_sum, cyc]
  refine Finset.sum_congr rfl fun i hi => ?_
  have hpick : ∀ j ∈ Finset.range n, (if (i + j) % n = k then coeff a i * coeff b j else 0) =
      if (k + n - i) % n = j then coeff a i * coeff b j else 0 := fun j hj => by
    simp only [add_mod_eq_iff (Finset.mem_range.1 hi) (Finset.mem_range.1 hj) hk]
  rw [Finset.sum_congr rfl hpick, Finset.sum_ite_eq, if_pos (Finset.mem_range.2 (Nat.mod_lt _ (by omega)))]

/-- The convolution modulo m depends on the operands modulo m only. -/
theorem cyc_emod_congr {n : Nat} {m : Int} {x x' y y' : Nat → Int} (hx : ∀ i < n, x i % m = x' i % m)
    (hy : ∀ i < n, y i % m = y' i % m) (k : Nat) : cyc n x y k % m = cyc n x' y' k % m := by
  refine Int.ModEq.sum fun i hi => Int.ModEq.sum fun j hj => ?_
  split
  · exact Int.ModEq.mul (hx i (Finset.mem_range.1 hi)) (hy j (Finset.mem_range.1 hj))
  · rfl

/-- MULQ with PHI = 0 is the convolution modulo Q (R120). -/
theorem coeff_mulqFn {p : Params} {k : Nat} (hk : k < p.n) (a b : Poly) :
    coeff (mulqFn p a b) k = cyc p.n (coeff a) (coeff b) k % p.q := by
  have hred (c : Poly) : ∀ i < p.n, coeff (reduceMod p.n p.q c) i % p.q = coeff c i % p.q := fun i hi => by
    rw [reduceMod, coeff_ofCoeffs _ hi, Int.emod_emod]
  rw [mulqFn, mulR, reduceMod, coeff_ofCoeffs _ hk, coeff_cyclicConv hk]
  exact cyc_emod_congr (hred a) (hred b) k

theorem coeff_mulqPhiFn {p : Params} {k : Nat} (hk : k < p.n) (a b : Poly) :
    coeff (mulqPhiFn p a b) k = (coeff (mulqFn p a b) k - coeff (mulqFn p a b) (p.n - 1)) % p.q := by
  rw [mulqPhiFn, phi, coeff_ofCoeffs _ hk]

theorem q_pos (p : Params) : 0 < p.q := Nat.two_pow_pos _

/-- A coefficient of the snapshot of a slot. -/
theorem coeff_values {n k : Nat} (hk : k < n) (ws : List Word) : coeff (values n ws) k = wordN ws k := by
  rw [values, coeff_ofCoeffs _ hk, wordN]

theorem wordOf_natCast (x : Nat) : wordOf (x : Int) = BitVec.ofNat 16 x := BitVec.ofInt_natCast 16 x

theorem toWords_getElem? {a : Poly} {k : Nat} (h : k < a.length) : (toWords a)[k]? = some (wordOf (coeff a k)) := by
  simp [toWords, coeff, h]

/-- A difference modulo q of numbers below q, without negative numbers. -/
theorem sub_emod_eq_natCast {q y : Nat} (x : Nat) (hy : y ≤ q) : ((x : Int) - y) % q = ((x + (q - y)) % q : Nat) := by
  push_cast [Nat.cast_sub hy]
  rw [← Int.add_emod_right]
  congr 1
  ring

/-- The product in R_Q of two operands given as words. -/
def wordProduct (n q : Nat) (x y : Nat → Word) (k : Nat) : Nat :=
  (∑ i ∈ Finset.range n, ∑ j ∈ Finset.range n, if (i + j) % n = k then (x i).toNat * (y j).toNat else 0) % q

theorem coeff_mulqFn_words {p : Params} {a b : Poly} {x y : Nat → Word} (ha : ∀ k < p.n, coeff a k = (x k).toNat)
    (hb : ∀ k < p.n, coeff b k = (y k).toNat) {k : Nat} (hk : k < p.n) :
    coeff (mulqFn p a b) k = wordProduct p.n p.q x y k := by
  rw [coeff_mulqFn hk, cyc_emod_congr (fun i hi => by rw [ha i hi]) (fun i hi => by rw [hb i hi]), cyc, wordProduct]
  push_cast
  rfl

/-- The words that MULQ writes to its destination. -/
def mulqWords (p : Params) (f : Flight) (withPhi : Bool) : List Word :=
  toWords (if withPhi then mulqPhiFn p (f.polyA p.n) (f.polyB p.n) else mulqFn p (f.polyA p.n) (f.polyB p.n))

@[simp] theorem length_mulqWords (p : Params) (f : Flight) (withPhi : Bool) : (mulqWords p f withPhi).length = p.n := by
  cases withPhi <;> simp [mulqWords]

/-- The words of MULQ are the product of the snapshots, with PHI = 1 reduced into S_Q (R120, R121). -/
theorem mulqWords_getElem? {p : Params} {f : Flight} {x y : Nat → Word} (hx : ∀ k < p.n, coeff (f.polyA p.n) k = (x k).toNat)
    (hy : ∀ k < p.n, coeff (f.polyB p.n) k = (y k).toNat) (withPhi : Bool) {k : Nat} (hk : k < p.n) :
    (mulqWords p f withPhi)[k]? = some (BitVec.ofNat 16
      (if withPhi then (wordProduct p.n p.q x y k + (p.q - wordProduct p.n p.q x y (p.n - 1))) % p.q
        else wordProduct p.n p.q x y k)) := by
  rw [← wordOf_natCast]
  cases withPhi with
  | false =>
    simp only [mulqWords, Bool.false_eq_true, if_false]
    rw [toWords_getElem? (by simpa using hk), coeff_mulqFn_words hx hy hk]
  | true =>
    have hlast : wordProduct p.n p.q x y (p.n - 1) ≤ p.q := (Nat.mod_lt _ (q_pos p)).le
    simp only [mulqWords, if_true]
    rw [toWords_getElem? (by simpa using hk), coeff_mulqPhiFn hk, coeff_mulqFn_words hx hy hk,
      coeff_mulqFn_words hx hy (Nat.sub_one_lt_of_lt hk), sub_emod_eq_natCast _ hlast]

/-! ### The command from submission to completion -/

/-- The word of MULQ decodes to it, for every value of its fields. -/
theorem decode_encode_mulq (d a b : SlotIx) (withPhi : Bool) :
    decode (encode (.mulq d a b withPhi)) = .ok (.mulq d a b withPhi) := by
  have hrest : (fieldMode (assemble withPhi b a d 1#8)).extractLsb' 1 3 = 0 := by
    apply BitVec.eq_of_toNat_eq
    rw [BitVec.extractLsb'_toNat, fieldMode_assemble]
    cases withPhi <;> rfl
  have henc : encode (.mulq d a b withPhi) = assemble withPhi b a d 1#8 := rfl
  rw [henc]
  simp [decode, row, fieldsClear, hrest]

/-- What a slot's snapshot holds. -/
theorem readSlot_eq_some {s : State} {d : SlotIx} {ws : List Word} (h : s.readSlot d = some ws) :
    ws.length = s.params.n ∧ ∀ k < s.params.n, ws[k]? = s.coeffAt d k := by
  unfold State.readSlot at h
  unfold State.coeffAt
  split at h
  · obtain ⟨hlen, hread⟩ := Memory.readList_eq_some.1 h
    exact ⟨hlen, fun k hk => by rw [← hread k hk, Nat.zero_add]⟩
  · cases h

/-- A slot whose words are all known has a snapshot, whose coefficients are those words as numbers. -/
theorem exists_readSlot {s : State} {d : SlotIx} (hd : d.toNat < 8) {x : Nat → Word}
    (hx : ∀ k < s.params.n, s.coeffAt d k = some (x k)) :
    ∃ ws, s.readSlot d = some ws ∧ ∀ k < s.params.n, coeff (values s.params.n ws) k = (x k).toNat := by
  obtain ⟨ws, hws⟩ := Option.isSome_iff_exists.1
    ((State.readSlot_isSome (s := s) hd).2 fun k hk => by rw [hx k hk]; rfl)
  refine ⟨ws, hws, fun k hk => ?_⟩
  have hk' := ((readSlot_eq_some hws).2 k hk).trans (hx k hk)
  rw [coeff_values hk, wordN, List.getD_eq_getElem?_getD, hk']
  rfl

/-- A submission followed by the engine's turn runs the command that was latched. -/
theorem run_two_of_submission {s u : State} {w : Bus} {f : Flight} {i : Instr} {rest : List Event}
    (hin : s.inputs = .write .word 0x20 w :: .engine :: rest)
    (hsubmit : hostWrite { s with inputs := .engine :: rest } 0x20 w = .next u) (hu : u.inputs = .engine :: rest)
    (hf : u.flight = some f) (hi : decode f.cmd = .ok i) :
    Sys2Proof.core.run 2 s = exec i { u with inputs := rest } := by
  have hfirst : step s = .next u := by
    simp only [step, hin, hostEvent, aligned32, ← hsubmit]; rfl
  have hsecond : step u = exec i { u with inputs := rest } := by
    simp only [step, hu, hostEvent, engineTurn, hf, hi]
  simp only [Host.Core.run, Sys2Proof.core, hfirst, hsecond]
  cases exec i { u with inputs := rest } <;> rfl

/-- A write of the MULQ word to CMD with written source slots is accepted, and latches them. -/
theorem hostWrite_mulq {s : State} {d a b : SlotIx} {withPhi : Bool} (hidle : s.flight = none) (hd : d.toNat < 8)
    (ha : a.toNat < 8) (hb : b.toNat < 8) {inA inB : List Word} (hA : s.readSlot a = some inA)
    (hB : s.readSlot b = some inB) :
    hostWrite s 0x020 (encode (.mulq d a b withPhi)) =
      .next (s.accept (s.latch (encode (.mulq d a b withPhi)) inA inB [] [])) := by
  have hwf : Instr.wf (.mulq d a b withPhi) = true := by simp [Instr.wf, SlotIx.valid, hd, ha, hb]
  rw [hostWrite_cmd_of_idle hidle]
  exact submit_of_written (checkCommand_eq_ok (decode_encode_mulq d a b withPhi) hwf rfl) hA hB rfl rfl

/-- MULQ in flight completes with the product of its snapshots. -/
theorem exec_mulq {s : State} {f : Flight} {d : SlotIx} (hf : s.flight = some f) (hd : d.toNat < 8) (a b : SlotIx)
    (withPhi : Bool) :
    exec (.mulq d a b withPhi) s = .next ((s.writeSlot d (mulqWords s.params f withPhi)).retire .ok) :=
  (whileInFlight_of hf _).trans (if_pos hd)

end Sys2Proof.Machine

namespace Sys2Proof.Proofs

open Sys2Proof Sys2Proof.Machine Sys2Proof.Claims

/-- Settles O60: the snapshot taken at submission is what the completion multiplies. -/
theorem submittedProductReachesSlot : Obligations.SubmittedProductReachesSlot := by
  intro s d a b withPhi wa wb rest hs hidle hd ha hb hin hwa hwb q prod
  obtain ⟨inA, hA, hpolyA⟩ := exists_readSlot ha hwa
  obtain ⟨inB, hB, hpolyB⟩ := exists_readSlot hb hwb
  have hrun := run_two_of_submission hin
    (hostWrite_mulq (s := { s with inputs := .engine :: rest }) hidle hd ha hb hA hB) rfl rfl
    (decode_encode_mulq d a b withPhi)
  refine ⟨_, hrun.trans (exec_mulq rfl hd a b withPhi), rfl, rfl, rfl, ?_, fun k hk => ?_, fun e k he => ?_, fun x => ?_⟩
  · rw [State.retire_inputs, State.writeSlot_inputs]
  · rw [State.coeffAt_congr (State.retire_slots _ _), State.coeffAt_writeSlot _ hd, length_mulqWords, if_pos ⟨rfl, hk⟩]
    exact mulqWords_getElem? hpolyA hpolyB withPhi hk
  · rw [State.coeffAt_congr (State.retire_slots _ _), State.coeffAt_writeSlot _ hd, if_neg fun h => he h.1]
    rfl
  · rw [State.byteAt_congr (State.retire_buf _ _), State.byteAt_congr (State.writeSlot_buf _ _ _)]
    rfl

end Sys2Proof.Proofs
end

section
/-! SUPPORT. The address map of R61 by its ranges, and what a transaction on each of the two windows does: a slot word, the
four byte lanes of a BUF word. -/

namespace Sys2Proof.Machine

/-! ### The address map (R61) -/

/-- The window word of P[d][k] (R63). -/
theorem target_coefficient {off : Offset} {d : SlotIx} {k : Nat} (hd : d.toNat < 8) (hk : k < 2048)
    (h : off.toNat = 0x10000 + d.toNat * 0x2000 + 4 * k) : target off = .coefficient d k := by
  have hslot : (off.toNat - 0x10000) / 0x2000 = d.toNat := by omega
  have hindex : (off.toNat - 0x10000) % 0x2000 / 4 = k := by omega
  unfold target
  dsimp only
  rw [if_neg (by omega), if_neg (by omega), if_pos (by omega), hslot, hindex, BitVec.ofNat_toNat, BitVec.setWidth_eq]

/-- The window word of BUF[4x..4x+3] (R64). -/
theorem target_bytes {off : Offset} {x : Nat} (hx : x < 0x4000) (h : off.toNat = 0x20000 + 4 * x) :
    target off = .bytes (4 * x) := by
  unfold target
  dsimp only
  rw [if_neg (by omega), if_neg (by omega), if_neg (by omega), if_pos (by omega), h, Nat.add_sub_cancel_left]

/-- The two unmapped ranges (R62). -/
theorem target_unmapped {off : Offset} (h : (0x40 ≤ off.toNat ∧ off.toNat < 0x10000) ∨ 0x30000 ≤ off.toNat) :
    target off = .unmapped := by
  unfold target
  dsimp only
  obtain ⟨hlow, hhigh⟩ | hhigh := h
  · rw [if_neg (by omega), if_pos (by omega)]
  · rw [if_neg (by omega), if_neg (by omega), if_neg (by omega), if_neg (by omega)]

theorem busy_of_idle {s : State} (h : s.flight = none) : s.busy = false := by
  rw [State.busy, h]
  rfl

/-! ### The slot window (R63) -/

/-- A write of one coefficient changes the slots only. -/
theorem State.writeCoeff_frame (s : State) (d : SlotIx) (k : Nat) (w : Word) :
    s.writeCoeff d k w = { s with slots := (s.writeCoeff d k w).slots } := by
  unfold State.writeCoeff
  split <;> rfl

section
variable {s : State} {off : Offset} {d : SlotIx} {k : Nat} (hidle : s.flight = none)
  (hoff : target off = .coefficient d k)
include hidle hoff

theorem hostWrite_coefficient (hk : k < s.params.n) (w : Bus) :
    hostWrite s off w = .next (s.writeCoeff d k (w.extractLsb' 0 16)) := by
  simp [hostWrite, hoff, busy_of_idle hidle, hk]

theorem hostWrite_coefficient_beyond (hk : s.params.n ≤ k) (w : Bus) : hostWrite s off w = .next s := by
  simp [hostWrite, hoff, busy_of_idle hidle, hk]

theorem hostRead_coefficient {x : Word} (hk : k < s.params.n) (hx : s.coeffAt d k = some x) :
    hostRead s off = .next (s.returns (x.zeroExtend 32)) := by
  simp [hostRead, hoff, busy_of_idle hidle, hk, hx]

theorem hostRead_coefficient_unwritten (hk : k < s.params.n) (hx : s.coeffAt d k = none) :
    hostRead s off = .fault .unwrittenCoeff := by
  simp [hostRead, hoff, busy_of_idle hidle, hk, hx]

theorem hostRead_coefficient_beyond (hk : s.params.n ≤ k) : hostRead s off = .next (s.returns 0) := by
  simp [hostRead, hoff, busy_of_idle hidle, hk]

end

/-! ### The BUF window (R64) -/

/-- Byte lane j as the statements write it: the word divided by 2^(8j), modulo 2^8. -/
theorem lane_eq_ofNat (w : Bus) (j : Nat) : lane w j = BitVec.ofNat 8 (w.toNat / 2 ^ (8 * j)) := by
  rw [← Nat.shiftRight_eq_div_pow]
  rfl

/-- Four bytes as one bus word, lowest lane first (R64). -/
def wordOfLanes (b : Nat → Byte) : Bus := (b 3 ++ b 2 ++ b 1 ++ b 0 : BitVec (8 + 8 + 8 + 8))

theorem lane_wordOfLanes (b : Nat → Byte) {j : Nat} (hj : j < 4) : lane (wordOfLanes b) j = b j := by
  apply BitVec.eq_of_toNat_eq
  have h0 := (b 0).isLt; have h1 := (b 1).isLt; have h2 := (b 2).isLt
  rw [lane, BitVec.extractLsb'_toNat, wordOfLanes]
  simp only [toNat_append_eq_add, Nat.shiftRight_eq_div_pow]
  interval_cases j <;> omega

theorem byteAt_laneWrite (s : State) (a : Nat) (b : Byte) (c : Nat) :
    (laneWrite s a b).byteAt c = if c = a ∧ c < s.params.bufBytes then some b else s.byteAt c := by
  unfold laneWrite
  split
  · next ha =>
    rw [State.byteAt_writeBuf, List.length_singleton]
    by_cases hc : c = a
    · simp [hc, ha]
    · rw [if_neg (by omega), if_neg (by omega)]
  · rw [if_neg (by omega)]

@[simp] theorem laneWrite_params (s : State) (a : Nat) (b : Byte) : (laneWrite s a b).params = s.params := by
  rw [laneWrite_frame]

/-- A byte of BUF in the written word takes its lane. -/
theorem byteAt_laneWrites_lane {s : State} {a j : Nat} (hj : j < 4) (h : a + j < s.params.bufBytes) (w : Bus) :
    (laneWrites s a w).byteAt (a + j) = some (lane w j) := by
  simp only [laneWrites, byteAt_laneWrite, laneWrite_params, h, and_true]
  interval_cases j <;> simp

/-- A byte outside the written word, or beyond BUF, is as before. -/
theorem byteAt_laneWrites_of_outside {s : State} {a c : Nat} (h : c < a ∨ a + 4 ≤ c ∨ s.params.bufBytes ≤ c) (w : Bus) :
    (laneWrites s a w).byteAt c = s.byteAt c := by
  simp only [laneWrites, byteAt_laneWrite, laneWrite_params]
  iterate 4 rw [if_neg (by omega)]

theorem laneRead_inside {s : State} {a : Nat} (h : a < s.params.bufBytes) : laneRead s a = s.byteAt a := if_pos h

theorem laneRead_beyond {s : State} {a : Nat} (h : s.params.bufBytes ≤ a) : laneRead s a = some 0 := if_neg (by omega)

section
variable {s : State} {off : Offset} {a : Nat} (hidle : s.flight = none) (hoff : target off = .bytes a)
include hidle hoff

theorem hostWrite_bytes (w : Bus) : hostWrite s off w = .next (laneWrites s a w) := by
  simp [hostWrite, hoff, busy_of_idle hidle, laneWrites]

/-- A read of four lanes that all have a value returns a word with these lanes. -/
theorem hostRead_bytes (h : ∀ j < 4, (laneRead s (a + j)).isSome = true) :
    ∃ y, hostRead s off = .next (s.returns y) ∧ ∀ j < 4, laneRead s (a + j) = some (lane y j) := by
  choose! b hb using fun j hj => Option.isSome_iff_exists.1 (h j hj)
  refine ⟨wordOfLanes b, ?_, fun j hj => by rw [lane_wordOfLanes b hj, hb j hj]⟩
  have h0 : laneRead s a = some (b 0) := hb 0 (by decide)
  simp [hostRead, hoff, busy_of_idle hidle, h0, hb 1, hb 2, hb 3, wordOfLanes]

theorem hostRead_bytes_unwritten {j : Nat} (hj : j < 4) (h : laneRead s (a + j) = none) :
    hostRead s off = .fault .unwrittenByte := by
  simp only [hostRead, hoff, busy_of_idle hidle, Bool.false_eq_true, if_false]
  split
  · interval_cases j <;> simp_all
  · rfl

end

/-! ### Unmapped offsets and refused accesses (R62, R66) -/

theorem hostRead_unmapped {s : State} {off : Offset} (h : target off = .unmapped) : hostRead s off = .next (s.returns 0) := by
  simp only [hostRead, h]

theorem hostWrite_unmapped {s : State} {off : Offset} (h : target off = .unmapped) (w : Bus) :
    hostWrite s off w = .next s := by
  simp only [hostWrite, h]

/-- A narrow access is refused, aligned or not. -/
theorem aligned32_narrow {size : AccessSize} (h : size ≠ .word) (off : Offset) (r : Result) :
    aligned32 size off r = .refused .narrowAccess := by
  cases size with
  | byte | half => rfl
  | word => exact absurd rfl h

theorem aligned32_misaligned {off : Offset} (h : off.toNat % 4 ≠ 0) (r : Result) :
    aligned32 .word off r = .refused .misalignedAccess := if_neg h

end Sys2Proof.Machine

namespace Sys2Proof.Proofs

open Sys2Proof Sys2Proof.Machine Sys2Proof.Claims

/-- Settles O45: the offset names P[d][k], and k below N decides between the location and its absence. -/
theorem slotWindow : Obligations.SlotWindow := by
  intro s d k off w hidle _ hd hk hoff
  have htarget := target_coefficient hd hk hoff
  refine ⟨fun hkn => ⟨⟨_, hostWrite_coefficient hidle htarget hkn w, ?_, fun a => ?_, fun e j hne => ?_,
      State.writeCoeff_frame s d k _⟩, fun x hx => ?_, hostRead_coefficient_unwritten hidle htarget hkn⟩,
    fun hkn => ⟨hostWrite_coefficient_beyond hidle htarget hkn w, hostRead_coefficient_beyond hidle htarget hkn⟩⟩
  · rw [State.coeffAt_writeCoeff s hd, if_pos ⟨rfl, rfl⟩]
    rfl
  · exact State.byteAt_congr (State.writeCoeff_buf s d k _) a
  · rw [State.coeffAt_writeCoeff s hd, if_neg (by tauto)]
  · rw [BitVec.ofNat_toNat]
    exact hostRead_coefficient hidle htarget hkn hx

/-- Settles O46: a write is four lane writes, and a read returns the word whose lanes are the four lane reads. -/
theorem bufWindow : Obligations.BufWindow := by
  intro s x off w hidle hx hoff
  have htarget := target_bytes hx hoff
  refine ⟨⟨_, hostWrite_bytes hidle htarget w, fun d k => ?_, laneWrites_frame s (4 * x) w, fun j hj hin => ?_,
    fun a ha => byteAt_laneWrites_of_outside ha w⟩, fun hwritten => ?_, fun ⟨j, hj, hin, hnone⟩ => ?_⟩
  · exact State.coeffAt_congr (by rw [laneWrites_frame]) d k
  · rw [byteAt_laneWrites_lane hj hin, lane_eq_ofNat]
  · obtain ⟨y, hread, hlanes⟩ := hostRead_bytes hidle htarget fun j hj => by
      by_cases hin : 4 * x + j < s.params.bufBytes
      · rw [laneRead_inside hin]
        exact hwritten j hj hin
      · rw [laneRead_beyond (not_lt.1 hin)]
        rfl
    refine ⟨y, hread, fun j hj => ⟨fun hin => ?_, fun hout => ?_⟩⟩
    · rw [← laneRead_inside hin, hlanes j hj, lane_eq_ofNat]
    · have hzero : lane y j = 0 := Option.some.inj ((hlanes j hj).symm.trans (laneRead_beyond hout))
      rw [lane_eq_ofNat] at hzero
      exact congrArg BitVec.toNat hzero
  · exact hostRead_bytes_unwritten hidle htarget hj ((laneRead_inside hin).trans hnone)

/-- Settles O59: a read that answers changes the returned word only, and the step takes the read off the schedule. -/
theorem readsHaveNoSideEffect : Obligations.ReadsHaveNoSideEffect := by
  intro s t off rest hin h
  simp only [step, hin, hostEvent] at h
  obtain ⟨-, -, hread⟩ := aligned32_next h
  exact hostRead_next hread

/-- Settles O47: both ranges lie outside the three mapped parts of R61. -/
theorem unmappedReadsZero : Obligations.UnmappedReadsZero := by
  intro s off w hoff
  have htarget := target_unmapped hoff
  exact ⟨hostWrite_unmapped htarget w, hostRead_unmapped htarget⟩

/-- Settles O48: reads and writes pass the same check of size and alignment before anything else. -/
theorem misalignedOrNarrowRefused : Obligations.MisalignedOrNarrowRefused := by
  intro s size off w rest
  refine ⟨fun hsize => ⟨aligned32_narrow hsize off _, aligned32_narrow hsize off _⟩, ?_⟩
  rintro rfl hoff
  exact ⟨aligned32_misaligned hoff _, aligned32_misaligned hoff _⟩

end Sys2Proof.Proofs
end

section
/-! SUPPORT. The codec: the encoder and the decoder are inverse to each other, row by row of R93, and the masks of R94
test what a row tests. -/

namespace Sys2Proof.Machine

open Sys2Proof.Claims

/-! ### The encoder's words decode -/

@[simp] theorem ringOfBit_bitOfRing (ring : RingSel) : ringOfBit (bitOfRing ring) = ring := by cases ring <;> rfl

@[simp] theorem lastOfBit_bitOfLast (last : LastCoeff) : lastOfBit (bitOfLast last) = last := by cases last <;> rfl

@[simp] theorem bitOfRing_ringOfBit (x : Bool) : bitOfRing (ringOfBit x) = x := by cases x <;> rfl

@[simp] theorem bitOfLast_lastOfBit (x : Bool) : bitOfLast (lastOfBit x) = x := by cases x <;> rfl

@[simp] theorem modeRest_assemble (mode0 : Bool) (b a d : SlotIx) (op : BitVec 8) :
    (fieldMode (assemble mode0 b a d op)).extractLsb' 1 3 = 0 := by
  apply BitVec.eq_of_toNat_eq
  rw [BitVec.extractLsb'_toNat, fieldMode_assemble]
  cases mode0 <;> rfl

/-- An assembled word passes check 2 of R263 exactly when the fields that the row does not use are 0. -/
@[simp] theorem fieldsClear_assemble (mode0 : Bool) (b a d : SlotIx) (op : BitVec 8) (useD useA useB useMode : Bool) :
    fieldsClear (assemble mode0 b a d op) useD useA useB useMode =
      ((useMode || !mode0) && (useD || decide (d = 0)) && (useA || decide (a = 0)) && (useB || decide (b = 0))) := by
  simp [fieldsClear]

theorem decode_encode (i : Instr) : decode (encode i) = .ok i := by
  cases i with
  | mulq d a b withPhi => exact decode_encode_mulq d a b withPhi
  | _ => simp [encode, decode, row]

/-! ### A decoded word is the encoder's word -/

/-- The fields of R90 cover the word. -/
theorem toNat_eq_sum_bits (w : Bus) :
    w.toNat = bits w 0 8 + 2 ^ 8 * bits w 8 4 + 2 ^ 12 * bits w 12 4 + 2 ^ 16 * bits w 16 4 + 2 ^ 20 * bits w 20 1 +
      2 ^ 21 * bits w 21 3 + 2 ^ 24 * bits w 24 8 := by
  have hw := w.isLt
  simp only [bits]
  omega

/-- A word whose bits 31:21 are 0 is assembled from its fields. -/
theorem assemble_fields {w : Bus} (hrest : bits w 21 3 = 0) (hrsv : bits w 24 8 = 0) :
    assemble (modeBit w) (fieldB w) (fieldA w) (fieldD w) (fieldOp w) = w := by
  apply BitVec.eq_of_toNat_eq
  rw [assemble_toNat, bits_modeBit, fieldB, fieldA, fieldD, fieldOp, toNat_extractLsb'_eq_bits, toNat_extractLsb'_eq_bits,
    toNat_extractLsb'_eq_bits, toNat_extractLsb'_eq_bits, toNat_eq_sum_bits w, hrest, hrsv]
  rfl

/-- A field that is 0 when the row does not use it is the field that the row's word carries. -/
theorem ite_eq_of_unused {use : Bool} {x : SlotIx} (h : use = false → x.toNat = 0) : (if use then x else 0) = x := by
  cases use with
  | false => exact BitVec.eq_of_toNat_eq (h rfl).symm
  | true => rfl

/-- A word that passes check 2 of R263 for its row is assembled from its OP and the fields that the row uses. -/
theorem assemble_of_fieldsClear {w : Bus} {op : Nat} {d a b m : Bool} (hop : (fieldOp w).toNat = op)
    (h : fieldsClear w d a b m = true) :
    assemble (m && modeBit w) (if b then fieldB w else 0) (if a then fieldA w else 0) (if d then fieldD w else 0)
      (BitVec.ofNat 8 op) = w := by
  have hclear := fieldsClear_iff.1 h
  simp only [reservedBad, not_or, not_not, not_and, ← toNat_extractLsb'_eq_bits w _ 4, ← bits_modeBit] at hclear
  obtain ⟨hrsv, hrest, hm, hd, ha, hb⟩ := hclear
  have hmode : (m && modeBit w) = modeBit w := by
    cases m with
    | false => exact (Bool.toNat_eq_zero.1 (hm rfl)).symm
    | true => rfl
  rw [← hop, BitVec.ofNat_toNat, BitVec.setWidth_eq, hmode, ite_eq_of_unused (x := fieldB w) hb,
    ite_eq_of_unused (x := fieldA w) ha, ite_eq_of_unused (x := fieldD w) hd, assemble_fields hrest hrsv]

theorem row_eq_ok {w : Bus} {d a b m : Bool} {i j : Instr} :
    row w d a b m i = .ok j ↔ fieldsClear w d a b m = true ∧ i = j := by
  unfold row
  split <;> simp_all

theorem encode_of_decode {w : Bus} {i : Instr} (h : decode w = .ok i) : encode i = w := by
  unfold decode at h
  split at h
  case h_21 => cases h
  all_goals
    next hop =>
      obtain ⟨hclear, rfl⟩ := row_eq_ok.1 h
      simpa [encode] using assemble_of_fieldsClear hop hclear

/-- Decoding and encoding are inverse to each other. -/
theorem decode_eq_ok_iff {w : Bus} {i : Instr} : decode w = .ok i ↔ encode i = w :=
  ⟨encode_of_decode, fun h => h ▸ decode_encode i⟩

/-! ### The rows of R93 and the masks of R94 -/

/-- A word has the row's OP and passes check 2 of R263 for it. -/
def FitsRow (w : Bus) : ℕ × Bool × Bool × Bool × Bool → Prop
  | (op, d, a, b, m) => bits w 0 8 = op ∧ ¬ reservedBad w d a b m

/-- A command's row of R93. -/
def opRow : Instr → ℕ × Bool × Bool × Bool × Bool
  | .mulq .. => (0x01, true, true, true, true)
  | .mul3 .. => (0x02, true, true, true, false)
  | .inv2 .. => (0x03, true, true, false, true)
  | .invq .. => (0x04, true, true, false, true)
  | .inv3 .. => (0x05, true, true, false, true)
  | .z3tozq .. => (0x08, true, true, false, false)
  | .zqtoz3 .. => (0x09, true, true, false, false)
  | .zqtos .. => (0x0A, true, true, false, false)
  | .rqtos3 .. => (0x0B, true, true, false, false)
  | .lift .. => (0x0C, true, true, false, false)
  | .packq .. => (0x10, false, true, false, false)
  | .unpackq .. => (0x11, true, false, false, true)
  | .pack3 .. => (0x12, false, true, false, false)
  | .unpack3 .. => (0x13, true, false, false, false)
  | .sampiid .. => (0x20, true, false, false, false)
  | .sampfw .. => (0x21, true, false, false, false)
  | .sampbi .. => (0x22, true, false, false, false)
  | .keypair => (0x30, false, false, false, false)
  | .enc .. => (0x31, false, true, true, false)
  | .dec => (0x32, false, false, false, false)

theorem opRow_mem_opRows (i : Instr) : opRow i ∈ opRows := by cases i <;> simp [opRow, opRows]

/-- OP alone selects the row. -/
theorem eq_of_mem_opRows : ∀ x ∈ opRows, ∀ y ∈ opRows, x.1 = y.1 → x = y := by decide

theorem fitsRow_iff_fields {w : Bus} {op : Nat} {d a b m : Bool} :
    FitsRow w (op, d, a, b, m) ↔ (fieldOp w).toNat = op ∧ fieldsClear w d a b m = true := by
  rw [fieldsClear_iff, fieldOp, toNat_extractLsb'_eq_bits, FitsRow]

theorem fitsRow_encode (i : Instr) : FitsRow (encode i) (opRow i) := by
  cases i <;> exact fitsRow_iff_fields.2 (by simp [encode])

/-- A word fits a row exactly when it decodes to a command of the row. -/
theorem fitsRow_iff_decode {w : Bus} {x : ℕ × Bool × Bool × Bool × Bool} (hx : x ∈ opRows) :
    FitsRow w x ↔ ∃ i, decode w = .ok i ∧ opRow i = x := by
  constructor
  · intro hfit
    obtain ⟨op, d, a, b, m⟩ := x
    obtain ⟨rfl, hclear⟩ := hfit
    obtain ⟨i, hi⟩ := rowCommand_of_opRow hx hclear
    refine ⟨i, hi.decodes, eq_of_mem_opRows _ (opRow_mem_opRows i) _ hx ?_⟩
    rw [← decode_eq_ok_iff.1 hi.decodes]
    exact (fitsRow_encode i).1.symm
  · rintro ⟨i, hi, rfl⟩
    rw [← decode_eq_ok_iff.1 hi]
    exact fitsRow_encode i

/-- The mask of a row by R94: RSV, OP, MODE[3:1], and what the row does not use of MODE[0], D, A and B. -/
def rowMask (d a b m : Bool) : Nat :=
  0xFF000000 ||| 0x000000FF ||| 0x00E00000 ||| (if m then 0 else 0x00100000) ||| (if d then 0 else 0xF00) |||
    (if a then 0 else 0xF000) ||| (if b then 0 else 0xF0000)

theorem bits_and (w v : Bus) (lo width : Nat) : bits (w &&& v) lo width = bits w lo width &&& bits v lo width := by
  rw [← toNat_extractLsb'_eq_bits, BitVec.extractLsb'_and, BitVec.toNat_and, toNat_extractLsb'_eq_bits,
    toNat_extractLsb'_eq_bits]

theorem bits_and_ones (w : Bus) (lo width : Nat) : bits w lo width &&& (2 ^ width - 1) = bits w lo width := by
  rw [Nat.and_two_pow_sub_one_eq_mod, bits, Nat.mod_mod]

/-- Two words are equal exactly when their fields are. -/
theorem eq_iff_bits {w v : Bus} : w = v ↔
    bits w 0 8 = bits v 0 8 ∧ bits w 8 4 = bits v 8 4 ∧ bits w 12 4 = bits v 12 4 ∧ bits w 16 4 = bits v 16 4 ∧
    bits w 20 1 = bits v 20 1 ∧ bits w 21 3 = bits v 21 3 ∧ bits w 24 8 = bits v 24 8 := by
  refine ⟨by rintro rfl; simp, fun ⟨h0, h8, h12, h16, h20, h21, h24⟩ => BitVec.eq_of_toNat_eq ?_⟩
  rw [toNat_eq_sum_bits w, toNat_eq_sum_bits v, h0, h8, h12, h16, h20, h21, h24]

theorem op_lt_of_mem_opRows : ∀ x ∈ opRows, x.1 < 2 ^ 8 := by decide

/-- The fields of a row's match (R94). -/
theorem bits_ofNat_op {op : Nat} (h : op < 2 ^ 8) :
    bits (BitVec.ofNat 32 op) 0 8 = op ∧ bits (BitVec.ofNat 32 op) 8 4 = 0 ∧ bits (BitVec.ofNat 32 op) 12 4 = 0 ∧
    bits (BitVec.ofNat 32 op) 16 4 = 0 ∧ bits (BitVec.ofNat 32 op) 20 1 = 0 ∧ bits (BitVec.ofNat 32 op) 21 3 = 0 ∧
    bits (BitVec.ofNat 32 op) 24 8 = 0 := by
  simp only [bits, BitVec.toNat_ofNat]
  omega

/-- The fields of a row's mask (R94). -/
theorem bits_rowMask (d a b m : Bool) :
    let mask := BitVec.ofNat 32 (rowMask d a b m)
    bits mask 0 8 = 2 ^ 8 - 1 ∧ bits mask 8 4 = (if d then 0 else 2 ^ 4 - 1) ∧
    bits mask 12 4 = (if a then 0 else 2 ^ 4 - 1) ∧ bits mask 16 4 = (if b then 0 else 2 ^ 4 - 1) ∧
    bits mask 20 1 = (if m then 0 else 2 ^ 1 - 1) ∧ bits mask 21 3 = 2 ^ 3 - 1 ∧ bits mask 24 8 = 2 ^ 8 - 1 := by
  revert d a b m
  decide

/-- A mask that covers a field only when the row does not use it leaves 0 exactly when the field passes check 2. -/
theorem bits_and_unused (w : Bus) (lo width : Nat) (use : Bool) :
    bits w lo width &&& (if use then 0 else 2 ^ width - 1) = 0 ↔ ¬ (use = false ∧ bits w lo width ≠ 0) := by
  cases use with
  | false => rw [if_neg Bool.false_ne_true, bits_and_ones]; simp
  | true => simp

/-- A word AND a row's mask equals the row's OP exactly when the word fits the row (R94). -/
theorem and_rowMask_iff {w : Bus} {op : Nat} {d a b m : Bool} (hop : op < 2 ^ 8) :
    w &&& BitVec.ofNat 32 (rowMask d a b m) = BitVec.ofNat 32 op ↔ FitsRow w (op, d, a, b, m) := by
  obtain ⟨h0, h8, h12, h16, h20, h21, h24⟩ := bits_rowMask d a b m
  obtain ⟨g0, g8, g12, g16, g20, g21, g24⟩ := bits_ofNat_op hop
  simp only [eq_iff_bits, bits_and, h0, h8, h12, h16, h20, h21, h24, g0, g8, g12, g16, g20, g21, g24, bits_and_unused,
    bits_and_ones, FitsRow, reservedBad, not_or, not_not]
  tauto

/-- The rows of spec/opcode_table.json are those of R93, with the masks that R94 computes. -/
theorem maskRows_eq_opRows :
    maskRows.map (fun r => (r.1, r.2.1)) = opRows.map fun (op, d, a, b, m) => (op, rowMask d a b m) := by
  decide

/-- A row of spec/opcode_table.json selects the commands with its OP. -/
theorem maskRows_select (i : Instr) : ∀ r ∈ maskRows, r.2.2 i = true ↔ (opRow i).1 = r.1 := by
  have h : maskRows.all (fun r => r.2.2 i == decide ((opRow i).1 = r.1)) = true := by cases i <;> rfl
  intro r hr
  rw [beq_iff_eq.1 (List.all_eq_true.1 h r hr), decide_eq_true_eq]

end Sys2Proof.Machine
end

section
namespace Sys2Proof.Proofs

open Sys2Proof Sys2Proof.Machine Sys2Proof.Claims

/-- Settles O2: row by row of R93, the word is assembled from the fields that the row uses. -/
theorem decodeInvertsEncode : Obligations.DecodeInvertsEncode :=
  ⟨decode_encode, fun _ _ => encode_of_decode⟩

/-- Settles O3: masked bits that match are those of a word that fits the row, and such words decode. -/
theorem matchMaskSelectsRow : Obligations.MatchMaskSelectsRow := by
  intro r hr w
  obtain ⟨⟨op, d, a, b, m⟩, hx, hrow⟩ := List.mem_map.1 (maskRows_eq_opRows ▸ List.mem_map_of_mem hr)
  obtain ⟨hop, hmask⟩ := Prod.mk.inj hrow
  rw [← hmask, ← hop, and_rowMask_iff (op_lt_of_mem_opRows _ hx), fitsRow_iff_decode hx]
  refine exists_congr fun i => and_congr_right fun _ => ?_
  rw [maskRows_select i r hr, ← hop]
  exact ⟨congrArg _, eq_of_mem_opRows _ (opRow_mem_opRows i) _ hx⟩

/-- Settles O1: each word is the encoder's word of the command beside it. -/
theorem exampleWordsDecode : Obligations.ExampleWordsDecode := by
  simp only [Obligations.ExampleWordsDecode, decode_eq_ok_iff]
  decide

end Sys2Proof.Proofs
end

section
/-! SUPPORT. What a completion leaves in its destination slot, and the products of MULQ and MUL3 as the statements write them. -/

namespace Sys2Proof.Machine

open Sys2Proof.Claims

/-! ### What a completion leaves in its slot -/

/-- A completion whose words may be UNSPEC leaves each known word, and the free value of its position elsewhere. -/
theorem completeSlotDrawn_writes {s : State} {d : SlotIx} (hd : d.toNat < 8) {ws : List (Option Word)} {w : ℕ → Word}
    (hw : ∀ k < s.params.n, (ws[k]?).map (fun x => x.getD (Config.freeWord (s.draws + k))) = some (w k)) (e : ErrCode) :
    ∃ t, completeSlotDrawn s d ws e = .next t ∧ Completed t e ∧ Writes s t d w := by
  refine ⟨_, if_pos hd, ⟨rfl, rfl, rfl⟩, fun k hk => ?_⟩
  have hlen : k < ws.length := by
    obtain ⟨x, hx, -⟩ := Option.map_eq_some_iff.1 (hw k hk)
    exact (List.getElem?_eq_some_iff.1 hx).1
  rw [State.coeffAt_congr (State.retire_slots _ _), State.coeffAt_writeSlotDrawn s hd, if_pos ⟨rfl, hlen⟩, hw k hk]

/-- A completion whose words are all known draws none of them. -/
theorem completeSlot_writes {s : State} {d : SlotIx} (hd : d.toNat < 8) {ws : List Word} {w : ℕ → Word}
    (hw : ∀ k < s.params.n, ws[k]? = some (w k)) :
    ∃ t, completeSlot s d ws = .next t ∧ Completed t .ok ∧ Writes s t d w := by
  refine ⟨_, if_pos hd, ⟨rfl, rfl, rfl⟩, fun k hk => ?_⟩
  have hlen : k < ws.length := (List.getElem?_eq_some_iff.1 (hw k hk)).1
  rw [State.coeffAt_congr (State.retire_slots _ _), State.coeffAt_writeSlot s hd, if_pos ⟨rfl, hlen⟩, hw k hk]

/-! ### The products of the snapshots -/

theorem coeff_mulqFn_snapshots {p : Params} {k : ℕ} (hk : k < p.n) (f : Flight) :
    coeff (mulqFn p (f.polyA p.n) (f.polyB p.n)) k = productQ p f k := by
  have hread (ws : List Word) : ∀ i < p.n, coeff (values p.n ws) i % p.q = ((wordN ws i % p.q : ℕ) : ℤ) % p.q :=
    fun i hi => by rw [coeff_values hi, Int.natCast_emod, Int.emod_emod]
  rw [coeff_mulqFn hk, Flight.polyA, Flight.polyB, cyc_emod_congr (hread f.inA) (hread f.inB), cyc, productQ]
  push_cast
  rfl

theorem productQ_lt (p : Params) (f : Flight) (k : ℕ) : productQ p f k < p.q := Nat.mod_lt _ (q_pos p)

/-- MUL3 subtracts the residue mod 3 of the last coefficient of the mod-Q product (R122). -/
theorem coeff_mul3Fn {p : Params} {k : ℕ} (hk : k < p.n) (a b : Poly) :
    coeff (mul3Fn p a b) k = (coeff (mulqFn p a b) k % 3 - coeff (mulqFn p a b) (p.n - 1) % 3) % 3 := by
  rw [mul3Fn, phi, coeff_ofCoeffs _ hk, reduceMod, coeff_ofCoeffs _ hk, coeff_ofCoeffs _ (Nat.sub_one_lt_of_lt hk)]

theorem coeff_mul3Fn_snapshots {p : Params} {k : ℕ} (hk : k < p.n) (f : Flight) :
    coeff (mul3Fn p (f.polyA p.n) (f.polyB p.n)) k =
      ((productQ p f k % 3 + (3 - productQ p f (p.n - 1) % 3)) % 3 : ℕ) := by
  have hlast : productQ p f (p.n - 1) % 3 ≤ 3 := (Nat.mod_lt _ (by decide)).le
  rw [coeff_mul3Fn hk, coeff_mulqFn_snapshots hk, coeff_mulqFn_snapshots (Nat.sub_one_lt_of_lt hk),
    ← sub_emod_eq_natCast _ hlast]
  rfl

/-! ### MUL3 below Q (R123) -/

theorem coeff_nonneg_of_inT3 {n : ℕ} {a : Poly} (h : inT3 n a = true) : ∀ k < n, 0 ≤ coeff a k := fun k hk => by
  have hk' := List.all_eq_true.1 h k (List.mem_range.2 hk)
  rw [Bool.and_eq_true, decide_eq_true_eq] at hk'
  exact hk'.1

theorem cyc_nonneg {n : ℕ} {x y : ℕ → ℤ} (hx : ∀ i < n, 0 ≤ x i) (hy : ∀ i < n, 0 ≤ y i) (k : ℕ) : 0 ≤ cyc n x y k := by
  refine Finset.sum_nonneg fun i hi => Finset.sum_nonneg fun j hj => ?_
  split
  · exact mul_nonneg (hx i (Finset.mem_range.1 hi)) (hy j (Finset.mem_range.1 hj))
  · exact le_rfl

end Sys2Proof.Machine

namespace Sys2Proof.Proofs

open Sys2Proof Sys2Proof.Machine Sys2Proof.Claims

/-- Settles O8: the product of the snapshots is the double sum of R120, and the last coefficient is subtracted with PHI. -/
theorem mulqWritesProduct : Obligations.MulqWritesProduct := by
  intro s f d a b withPhi hf hd
  have hexec : exec (.mulq d a b withPhi) s = completeSlot s d (mulqWords s.params f withPhi) := whileInFlight_of hf _
  rw [hexec]
  refine completeSlot_writes hd fun k hk => ?_
  have hlast := Nat.sub_one_lt_of_lt hk
  rw [← wordOf_natCast]
  cases withPhi with
  | false =>
    simp only [mulqWords, Bool.false_eq_true, if_false]
    rw [toWords_getElem? (by simpa using hk), coeff_mulqFn_snapshots hk]
  | true =>
    simp only [mulqWords, if_true]
    rw [toWords_getElem? (by simpa using hk), coeff_mulqPhiFn hk, coeff_mulqFn_snapshots hk, coeff_mulqFn_snapshots hlast,
      sub_emod_eq_natCast _ (productQ_lt _ _ _).le]

/-- Settles O9: MUL3 of the snapshots is the double sum of R120 through the two reductions of R122. -/
theorem mul3WritesReducedProduct : Obligations.Mul3WritesReducedProduct := by
  intro s f d a b hf hd
  have hexec : exec (.mul3 d a b) s = completeSlot s d (toWords (mul3Fn s.params (f.polyA s.params.n) (f.polyB s.params.n))) :=
    whileInFlight_of hf _
  rw [hexec]
  refine completeSlot_writes hd fun k hk => ?_
  rw [toWords_getElem? (by simpa using hk), coeff_mul3Fn_snapshots hk, wordOf_natCast]

/-- Settles O10: the convolution lies in [0, Q), so that the reduction mod Q changes no coefficient. -/
theorem mul3ExactBelowQ : Obligations.Mul3ExactBelowQ := by
  intro p a b hp ha hb hlt
  have hn : 0 < p.n := by have := params_bounds hp; omega
  have hlast := Nat.sub_one_lt_of_lt hn
  have hprod : ∀ k < p.n, coeff (mulqFn p a b) k = cyc p.n (coeff a) (coeff b) k := fun k hk => by
    rw [coeff_mulqFn hk]
    exact Int.emod_eq_of_lt (cyc_nonneg (coeff_nonneg_of_inT3 ha) (coeff_nonneg_of_inT3 hb) k) (hlt k hk)
  refine ⟨fun k hk => ?_, fun k hk => ?_, fun _ => ?_⟩
  · rw [coeff_mul3Fn hk, coeff_mul3Fn hlast, hprod k hk, hprod _ hlast]
    omega
  · rw [coeff_mul3Fn hk]
    omega
  · rw [coeff_mul3Fn hlast, sub_self, Int.zero_emod]

end Sys2Proof.Proofs
end

section
/-! SUPPORT. The rings R_m and S_m of R12 as quotients of the polynomials over Z/m: congruence is equality in the quotient,
the cyclic convolution is its product, so that an inverse (R124) is an inverse there and the canonical one is unique. -/

namespace Sys2Proof.Machine

open Sys2Proof.Claims
open Polynomial (X C)

/-! ### Polynomials at a point of a ring -/

/-- Σ_{k < N} x[k]·r^k. -/
def polyAt {B : Type*} [CommRing B] (r : B) (n : ℕ) (x : ℕ → ℤ) : B := ∑ k ∈ Finset.range n, (x k : B) * r ^ k

/-- r is a root of the modulus polynomial of the ring: Φ_N (RING = 0) or x^N − 1 (RING = 1), R124. -/
def IsRootOf {B : Type*} [CommRing B] (n : ℕ) (ring : RingSel) (r : B) : Prop :=
  match ring with
  | .sPhi => ∑ k ∈ Finset.range n, r ^ k = 0
  | .rXn => r ^ n = 1

/-- The representative that R12 reduces mod m: modulo Φ_N the last coefficient is subtracted first (R121). -/
def normal (n : ℕ) (ring : RingSel) (x : ℕ → ℤ) (k : ℕ) : ℤ :=
  match ring with
  | .sPhi => x k - x (n - 1)
  | .rXn => x k

theorem ringEq_iff_normal {n : ℕ} {m : ℤ} {ring : RingSel} {x y : ℕ → ℤ} :
    RingEq n m ring x y ↔ ∀ k < n, normal n ring x k % m = normal n ring y k % m := by
  cases ring <;> rfl

section
variable {B : Type*} [CommRing B] {r : B} {n : ℕ} {ring : RingSel}

theorem polyAt_congr {x y : ℕ → ℤ} (h : ∀ k < n, (x k : B) = y k) : polyAt r n x = polyAt r n y :=
  Finset.sum_congr rfl fun k hk => by rw [h k (Finset.mem_range.1 hk)]

theorem polyAt_sub (x y : ℕ → ℤ) : polyAt r n (fun k => x k - y k) = polyAt r n x - polyAt r n y := by
  simp only [polyAt, Int.cast_sub, sub_mul, Finset.sum_sub_distrib]

theorem coeff_of_length_le {a : Poly} {k : ℕ} (h : a.length ≤ k) : coeff a k = 0 := by
  simp [coeff, List.getElem?_eq_none h]

/-- Coefficients from the length of a list on are 0 and add nothing. -/
theorem polyAt_of_length_le {a : Poly} (h : a.length ≤ n) : polyAt r n (coeff a) = polyAt r a.length (coeff a) := by
  refine (Finset.sum_subset (Finset.range_subset_range.2 h) fun k _ hk => ?_).symm
  rw [coeff_of_length_le (by simpa using hk), Int.cast_zero, zero_mul]

/-- The constant polynomial with the value c. -/
theorem polyAt_const (hn : 0 < n) (c : ℤ) : polyAt r n (fun k => if k = 0 then c else 0) = c := by
  rw [polyAt, Finset.sum_eq_single_of_mem 0 (Finset.mem_range.2 hn) fun k _ hk => by simp [hk]]
  simp

theorem polyAt_one (hn : 0 < n) : polyAt r n one = 1 := (polyAt_const hn 1).trans Int.cast_one

theorem map_polyAt {B' : Type*} [CommRing B'] (g : B →+* B') (x : ℕ → ℤ) : g (polyAt r n x) = polyAt (g r) n x := by
  simp only [polyAt, map_sum, map_mul, map_intCast, map_pow]

/-- Φ_N divides x^N − 1: in both rings x^N is 1. -/
theorem IsRootOf.pow_eq_one (hr : IsRootOf n ring r) : r ^ n = 1 := by
  cases ring with
  | sPhi =>
    have hgeom : (r - 1) * ∑ k ∈ Finset.range n, r ^ k = r ^ n - 1 := mul_geom_sum r n
    rw [show ∑ k ∈ Finset.range n, r ^ k = 0 from hr, mul_zero] at hgeom
    exact (sub_eq_zero.1 hgeom.symm)
  | rXn => exact hr

theorem IsRootOf.polyAt_normal (hr : IsRootOf n ring r) (x : ℕ → ℤ) : polyAt r n (normal n ring x) = polyAt r n x := by
  cases ring with
  | sPhi =>
    have hconst : polyAt r n (fun _ => x (n - 1)) = 0 := by
      rw [polyAt, ← Finset.mul_sum, show ∑ k ∈ Finset.range n, r ^ k = 0 from hr, mul_zero]
    exact (polyAt_sub x _).trans (by rw [hconst, sub_zero])
  | rXn => rfl

/-- The cyclic convolution is the product wherever x^N is 1 (R13). -/
theorem polyAt_cyc (hr : r ^ n = 1) (a b : ℕ → ℤ) : polyAt r n (cyc n a b) = polyAt r n a * polyAt r n b := by
  have hpair (i j : ℕ) (hn : 0 < n) : ∑ k ∈ Finset.range n, ((if (i + j) % n = k then a i * b j else 0 : ℤ) : B) * r ^ k =
      a i * r ^ i * (b j * r ^ j) := by
    rw [Finset.sum_eq_single_of_mem ((i + j) % n) (Finset.mem_range.2 (Nat.mod_lt _ hn)) fun k _ hk => by simp [Ne.symm hk],
      if_pos rfl, ← pow_eq_pow_mod (i + j) hr]
    push_cast
    ring
  rw [polyAt, polyAt, polyAt, Finset.sum_mul_sum]
  simp only [cyc, Int.cast_sum, Finset.sum_mul]
  rw [Finset.sum_comm]
  refine Finset.sum_congr rfl fun i hi => ?_
  rw [Finset.sum_comm]
  exact Finset.sum_congr rfl fun j _ => hpair i j (Nat.zero_lt_of_lt (Finset.mem_range.1 hi))

/-- Representatives that are congruent modulo d differ by a multiple of d. -/
theorem IsRootOf.natCast_dvd_of_ringEq (hr : IsRootOf n ring r) {d : ℕ} {x y : ℕ → ℤ} (h : RingEq n d ring x y) :
    (d : B) ∣ polyAt r n x - polyAt r n y := by
  rw [← hr.polyAt_normal x, ← hr.polyAt_normal y, ← polyAt_sub]
  refine Finset.dvd_sum fun k hk => Dvd.dvd.mul_right ?_ _
  have hdvd : (d : ℤ) ∣ normal n ring x k - normal n ring y k :=
    Int.ModEq.dvd (ringEq_iff_normal.1 h k (Finset.mem_range.1 hk)).symm
  simpa using map_dvd (Int.castRingHom B) hdvd

/-- For an inverse modulo d the error 1 − a·v is a multiple of d. -/
theorem IsRootOf.natCast_dvd_of_isInverse (hr : IsRootOf n ring r) (hn : 0 < n) {d : ℕ} {a v : ℕ → ℤ}
    (h : IsInverse n d ring a v) : (d : B) ∣ 1 - polyAt r n a * polyAt r n v := by
  have hdvd := hr.natCast_dvd_of_ringEq h
  rwa [polyAt_cyc hr.pow_eq_one, polyAt_one hn, dvd_sub_comm] at hdvd

end

/-! ### The quotient rings -/

/-- The modulus polynomial of the ring over Z/m: Φ_N or x^N − 1 (R124). -/
noncomputable def ringModulus (m n : ℕ) : RingSel → Polynomial (ZMod m)
  | .sPhi => ∑ k ∈ Finset.range n, X ^ k
  | .rXn => X ^ n - C 1

/-- S_m (RING = 0) or R_m (RING = 1), R12. -/
abbrev RingOf (m n : ℕ) (ring : RingSel) : Type := AdjoinRoot (ringModulus m n ring)

/-- The element of the ring that a polynomial stands for. -/
noncomputable def element (m n : ℕ) (ring : RingSel) (x : ℕ → ℤ) : RingOf m n ring :=
  polyAt (AdjoinRoot.root (ringModulus m n ring)) n x

theorem isRootOf_root (m n : ℕ) (ring : RingSel) : IsRootOf n ring (AdjoinRoot.root (ringModulus m n ring)) := by
  have hself := AdjoinRoot.mk_self (f := ringModulus m n ring)
  rw [← AdjoinRoot.mk_X]
  cases ring with
  | sPhi =>
    simp only [IsRootOf, ← map_pow, ← map_sum]
    exact hself
  | rXn =>
    rw [IsRootOf, ← map_pow, ← map_one (AdjoinRoot.mk _), ← sub_eq_zero, ← map_sub]
    exact hself

theorem element_eq_mk (m n : ℕ) (ring : RingSel) (x : ℕ → ℤ) :
    element m n ring x = AdjoinRoot.mk (ringModulus m n ring) (polyAt X n x) := by
  rw [map_polyAt, AdjoinRoot.mk_X, element]

/-- m is 0 in S_m and R_m. -/
@[simp] theorem natCast_ringOf (m n : ℕ) (ring : RingSel) : (m : RingOf m n ring) = 0 := by
  rw [← map_natCast (AdjoinRoot.of (ringModulus m n ring)) m, ZMod.natCast_self, map_zero]

theorem coeff_polyAt_X {m : ℕ} (n : ℕ) (x : ℕ → ℤ) (k : ℕ) :
    (polyAt (X : Polynomial (ZMod m)) n x).coeff k = if k < n then (x k : ZMod m) else 0 := by
  simp only [polyAt, Polynomial.finsetSum_coeff, ← Polynomial.C_eq_intCast, Polynomial.coeff_C_mul_X_pow,
    Finset.sum_ite_eq, Finset.mem_range]

theorem ringModulus_monic {m n : ℕ} (hn : 0 < n) (ring : RingSel) : (ringModulus m n ring).Monic := by
  cases ring with
  | sPhi => exact Polynomial.monic_geom_sum_X hn.ne'
  | rXn => exact Polynomial.monic_X_pow_sub_C 1 hn.ne'

/-- Φ_N has degree N − 1, as (x − 1)·Φ_N is x^N − 1. -/
theorem natDegree_ringModulus {m n : ℕ} (hm : 1 < m) (hn : 0 < n) (ring : RingSel) :
    (ringModulus m n ring).natDegree = match ring with | .sPhi => n - 1 | .rXn => n := by
  have : Fact (1 < m) := ⟨hm⟩
  have hXn : (X ^ n - C 1 : Polynomial (ZMod m)).natDegree = n := Polynomial.natDegree_X_pow_sub_C
  cases ring with
  | sPhi =>
    have hgeom : (X - C 1) * ringModulus m n .sPhi = X ^ n - C 1 := mul_geom_sum X n
    rw [← hgeom, (Polynomial.monic_X_sub_C 1).natDegree_mul (ringModulus_monic hn _), Polynomial.natDegree_X_sub_C] at hXn
    exact (Nat.sub_eq_of_eq_add' hXn.symm).symm
  | rXn => exact hXn

/-- A multiple of a monic polynomial with no coefficient from its degree on is 0. -/
theorem eq_zero_of_monic_dvd {R : Type*} [CommRing R] {M D : Polynomial R} (hM : M.Monic) (hdvd : M ∣ D)
    (h : ∀ k, M.natDegree ≤ k → D.coeff k = 0) : D = 0 := by
  nontriviality R
  by_contra h0
  refine hM.not_dvd_of_degree_lt h0 ?_ hdvd
  rw [Polynomial.degree_eq_natDegree hM.ne_zero]
  exact (Polynomial.degree_lt_iff_coeff_zero _ _).2 h

/-- The coefficients that the normal representative has from the degree of the modulus on are 0. -/
theorem coeff_polyAt_normal {m n : ℕ} (hm : 1 < m) (hn : 0 < n) (ring : RingSel) (x : ℕ → ℤ) {k : ℕ}
    (hk : (ringModulus m n ring).natDegree ≤ k) : (polyAt (X : Polynomial (ZMod m)) n (normal n ring x)).coeff k = 0 := by
  rw [natDegree_ringModulus hm hn] at hk
  rw [coeff_polyAt_X]
  split
  · cases ring with
    | sPhi =>
      obtain rfl : k = n - 1 := by dsimp only at hk; omega
      simp [normal]
    | rXn => exact absurd hk (by dsimp only; omega)
  · rfl

/-- R12: two polynomials are congruent in the ring exactly when they are the same element of it. -/
theorem ringEq_iff_element {m n : ℕ} (hm : 1 < m) (hn : 0 < n) {ring : RingSel} {x y : ℕ → ℤ} :
    RingEq n m ring x y ↔ element m n ring x = element m n ring y := by
  have hr := isRootOf_root m n ring
  constructor
  · intro h
    have hdvd := hr.natCast_dvd_of_ringEq h
    rwa [natCast_ringOf, zero_dvd_iff, sub_eq_zero] at hdvd
  · intro h
    have hmk : AdjoinRoot.mk (ringModulus m n ring) (polyAt X n (normal n ring x)) =
        AdjoinRoot.mk _ (polyAt X n (normal n ring y)) := by
      rwa [map_polyAt, map_polyAt, AdjoinRoot.mk_X, hr.polyAt_normal, hr.polyAt_normal]
    have hzero := eq_zero_of_monic_dvd (ringModulus_monic hn ring) (AdjoinRoot.mk_eq_mk.1 hmk) fun k hk => by
      rw [Polynomial.coeff_sub, coeff_polyAt_normal hm hn ring x hk, coeff_polyAt_normal hm hn ring y hk, sub_zero]
    refine ringEq_iff_normal.2 fun k hk => (ZMod.intCast_eq_intCast_iff _ _ _).1 ?_
    have hcoeff := congrArg (fun p => p.coeff k) (sub_eq_zero.1 hzero)
    simpa only [coeff_polyAt_X, if_pos hk] using hcoeff

theorem element_cyc (m n : ℕ) (ring : RingSel) (x y : ℕ → ℤ) :
    element m n ring (cyc n x y) = element m n ring x * element m n ring y :=
  polyAt_cyc (isRootOf_root m n ring).pow_eq_one x y

/-- R124: an inverse is an inverse in the ring. -/
theorem isInverse_iff_element {m n : ℕ} (hm : 1 < m) (hn : 0 < n) {ring : RingSel} {a v : ℕ → ℤ} :
    IsInverse n m ring a v ↔ element m n ring a * element m n ring v = 1 := by
  have hone : element m n ring one = 1 := polyAt_one hn
  rw [IsInverse, ringEq_iff_element hm hn, element_cyc, hone]

/-- Coefficients that agree mod m give the same element. -/
theorem element_congr {m n : ℕ} {ring : RingSel} {x y : ℕ → ℤ} (h : ∀ k < n, x k % m = y k % m) :
    element m n ring x = element m n ring y := by
  refine polyAt_congr fun k hk => ?_
  have hk' : (x k : ZMod m) = y k := (ZMod.intCast_eq_intCast_iff _ _ _).2 (h k hk)
  simpa using congrArg (AdjoinRoot.of (ringModulus m n ring)) hk'

/-! ### Canonical representatives -/

/-- R12: congruent canonical representatives are equal. -/
theorem eq_of_ringEq_of_canonical {n : ℕ} {m : ℤ} {ring : RingSel} {v w : ℕ → ℤ} (hv : IsCanonical n m ring v)
    (hw : IsCanonical n m ring w) (h : RingEq n m ring v w) : ∀ k < n, v k = w k := by
  intro k hk
  obtain ⟨hv, hvlast⟩ := hv
  obtain ⟨hw, hwlast⟩ := hw
  have hk' := ringEq_iff_normal.1 h k hk
  have hnormal : normal n ring v k = v k ∧ normal n ring w k = w k := by
    cases ring with
    | sPhi => simp [normal, hvlast, hwlast]
    | rXn => exact ⟨rfl, rfl⟩
  rwa [hnormal.1, hnormal.2, Int.emod_eq_of_lt (hv k hk).1 (hv k hk).2, Int.emod_eq_of_lt (hw k hk).1 (hw k hk).2] at hk'

/-- R124: the canonical inverse is unique. -/
theorem canonicalInverse_unique {m n : ℕ} (hm : 1 < m) (hn : 0 < n) {ring : RingSel} {a v w : ℕ → ℤ}
    (hv : IsCanonical n m ring v) (hav : IsInverse n m ring a v) (hw : IsCanonical n m ring w)
    (haw : IsInverse n m ring a w) : ∀ k < n, v k = w k := by
  rw [isInverse_iff_element hm hn] at hav haw
  exact eq_of_ringEq_of_canonical hv hw ((ringEq_iff_element hm hn).2 (left_inv_eq_right_inv ((mul_comm _ _).trans hav) haw))

/-- The normal representative mod m is canonical. -/
theorem isCanonical_of_normal {n : ℕ} {m : ℤ} (hm : 0 < m) (hn : 0 < n) {ring : RingSel} {v x : ℕ → ℤ}
    (h : ∀ k < n, v k = normal n ring x k % m) : IsCanonical n m ring v := by
  refine ⟨fun k hk => ?_, ?_⟩
  · rw [h k hk]
    exact ⟨Int.emod_nonneg _ hm.ne', Int.emod_lt_of_pos _ hm⟩
  · rintro rfl
    simp [h _ (Nat.sub_one_lt_of_lt hn), normal]

/-- The normal representative mod m stands for the same element. -/
theorem element_of_normal {m n : ℕ} {ring : RingSel} {v x : ℕ → ℤ} (h : ∀ k < n, v k = normal n ring x k % m) :
    element m n ring v = element m n ring x :=
  (element_congr fun k hk => by rw [h k hk, Int.emod_emod]).trans ((isRootOf_root m n ring).polyAt_normal x)

end Sys2Proof.Machine
end

section
/-! SUPPORT. What the model's ring functions compute, in the quotient ring: products, canonical forms, the certified candidate
(R124), and the answers of the inverse functions that follow from it. -/

namespace Sys2Proof.Machine

open Sys2Proof.Claims
open Polynomial (X C)

/-! ### Reductions and products -/

theorem coeff_reduceMod {n k : ℕ} (hk : k < n) (m : ℤ) (a : Poly) : coeff (reduceMod n m a) k = coeff a k % m := by
  rw [reduceMod, coeff_ofCoeffs _ hk]

@[simp] theorem element_reduceMod (m n : ℕ) (ring : RingSel) (a : Poly) :
    element m n ring (coeff (reduceMod n m a)) = element m n ring (coeff a) :=
  element_congr fun k hk => by rw [coeff_reduceMod hk, Int.emod_emod]

theorem coeff_mulR {n k : ℕ} (hk : k < n) (m : ℤ) (a b : Poly) :
    coeff (mulR n m a b) k = cyc n (coeff a) (coeff b) k % m := by
  rw [mulR, coeff_reduceMod hk, coeff_cyclicConv hk]

/-- The product in R_m is the product in either ring, as Φ_N divides x^N − 1. -/
@[simp] theorem element_mulR (m n : ℕ) (ring : RingSel) (a b : Poly) :
    element m n ring (coeff (mulR n m a b)) = element m n ring (coeff a) * element m n ring (coeff b) :=
  (element_congr fun k hk => by rw [coeff_mulR hk, Int.emod_emod]).trans (element_cyc m n ring _ _)

theorem coeff_mulIn {n k : ℕ} (hk : k < n) (m : ℤ) (ring : RingSel) (a b : Poly) :
    coeff (mulIn n m ring a b) k = normal n ring (cyc n (coeff a) (coeff b)) k % m := by
  cases ring with
  | sPhi =>
    rw [mulIn, phi, coeff_ofCoeffs _ hk, coeff_cyclicConv hk, coeff_cyclicConv (Nat.sub_one_lt_of_lt hk), normal]
  | rXn => exact coeff_mulR hk m a b

/-- A list of N coefficients is determined by them. -/
theorem eq_ofCoeffs_iff {n : ℕ} {a : Poly} {x : ℕ → ℤ} (h : a.length = n) : a = ofCoeffs n x ↔ ∀ k < n, coeff a k = x k := by
  constructor
  · rintro rfl k hk
    exact coeff_ofCoeffs _ hk
  · intro hx
    refine List.ext_getElem (by simpa using h) fun k hk _ => ?_
    have hk' := hx k (h ▸ hk)
    simpa [coeff, ofCoeffs, hk] using hk'

/-- 1 is canonical in both rings, as N ≥ 2 and m ≥ 2. -/
theorem normal_one_emod {n : ℕ} {m : ℤ} (hm : 1 < m) (hn : 1 < n) (ring : RingSel) (k : ℕ) :
    normal n ring one k % m = one k := by
  have hone : one k % m = one k := by
    unfold one
    split
    · exact Int.emod_eq_of_lt zero_le_one hm
    · exact Int.zero_emod m
  have hlast : one (n - 1) = 0 := if_neg (by omega)
  cases ring with
  | sPhi => rw [normal, hlast, sub_zero, hone]
  | rXn => exact hone

/-- The multiplication of `certify` decides R124. -/
theorem mulIn_eq_onePoly_iff {n : ℕ} {m : ℤ} (hm : 1 < m) (hn : 1 < n) {ring : RingSel} {a v : Poly} :
    mulIn n m ring a v = onePoly n ↔ IsInverse n m ring (coeff a) (coeff v) := by
  have hlen : (mulIn n m ring a v).length = n := by cases ring <;> exact length_ofCoeffs _ _
  rw [onePoly, eq_ofCoeffs_iff hlen, IsInverse, ringEq_iff_normal]
  refine forall₂_congr fun k hk => ?_
  rw [coeff_mulIn hk, normal_one_emod hm hn]
  rfl

theorem certify_eq_some_iff {n : ℕ} {m : ℤ} (hm : 1 < m) (hn : 1 < n) {ring : RingSel} {a v w : Poly} :
    certify n m ring a v = some w ↔ IsInverse n m ring (coeff a) (coeff v) ∧ v = w := by
  rw [certify, ← mulIn_eq_onePoly_iff hm hn]
  split <;> simp [*]

/-! ### The canonical form of a polynomial of any length -/

/-- The polynomial over Z/m that a list of any length stands for. -/
noncomputable def polyOf (m : ℕ) (a : Poly) : Polynomial (ZMod m) := polyAt X a.length (coeff a)

@[simp] theorem coeff_polyOf (m : ℕ) (a : Poly) (k : ℕ) : (polyOf m a).coeff k = (coeff a k : ZMod m) := by
  rw [polyOf, coeff_polyAt_X]
  split
  · rfl
  · rw [coeff_of_length_le (by omega), Int.cast_zero]

/-- The coefficient k after x^N is replaced by 1. -/
def foldXn (n : ℕ) (a : Poly) (k : ℕ) : ℤ := sumTo (a.length / n + 1) fun i => coeff a (k + n * i)

theorem coeff_canonical {n k : ℕ} (hk : k < n) (m : ℤ) (ring : RingSel) (a : Poly) :
    coeff (canonical n m ring a) k = normal n ring (foldXn n a) k % m := by
  cases ring with
  | sPhi =>
    simp only [canonical, phi]
    rw [coeff_ofCoeffs _ hk, coeff_ofCoeffs _ hk, coeff_ofCoeffs _ (Nat.sub_one_lt_of_lt hk)]
    rfl
  | rXn =>
    simp only [canonical]
    rw [coeff_reduceMod hk, coeff_ofCoeffs _ hk]
    rfl

theorem isCanonical_canonical {n : ℕ} {m : ℤ} (hm : 0 < m) (hn : 0 < n) (ring : RingSel) (a : Poly) :
    IsCanonical n m ring (coeff (canonical n m ring a)) :=
  isCanonical_of_normal hm hn fun _ hk => coeff_canonical hk m ring a

/-- Block by block of N coefficients, folding modulo x^N − 1 keeps the value wherever x^N is 1. -/
theorem polyAt_foldXn {B : Type*} [CommRing B] {r : B} {n : ℕ} (hr : r ^ n = 1) (hn : 0 < n) (a : Poly) :
    polyAt r n (foldXn n a) = polyAt r a.length (coeff a) := by
  have hblocks (L : ℕ) : polyAt r n (fun k => sumTo L fun i => coeff a (k + n * i)) = polyAt r (n * L) (coeff a) := by
    induction L with
    | zero => simp [polyAt, sumTo]
    | succ L ih =>
      have hshift (k : ℕ) : r ^ (k + n * L) = r ^ k := by rw [pow_add, pow_mul, hr, one_pow, mul_one]
      have hlast : polyAt r (n * (L + 1)) (coeff a) =
          polyAt r (n * L) (coeff a) + ∑ k ∈ Finset.range n, (coeff a (k + n * L) : B) * r ^ k := by
        rw [polyAt, Nat.mul_succ, Finset.sum_range_add]
        simp only [add_comm (n * L) _, hshift, polyAt]
      rw [hlast, ← ih]
      simp only [polyAt, sumTo_eq_sum, Finset.sum_range_succ, Int.cast_add, add_mul, Finset.sum_add_distrib]
  exact (hblocks _).trans (polyAt_of_length_le (Nat.lt_mul_div_succ _ hn).le)

/-- The canonical form stands for the same element as the polynomial. -/
theorem element_canonical {m n : ℕ} (hn : 0 < n) (ring : RingSel) (a : Poly) :
    element m n ring (coeff (canonical n m ring a)) = AdjoinRoot.mk (ringModulus m n ring) (polyOf m a) := by
  rw [element_of_normal fun _ hk => coeff_canonical hk m ring a, polyOf, map_polyAt, AdjoinRoot.mk_X]
  exact polyAt_foldXn (isRootOf_root m n ring).pow_eq_one hn a

/-- For a polynomial of N coefficients. -/
theorem element_canonical_of_length {m n : ℕ} (hn : 0 < n) (ring : RingSel) {a : Poly} (h : a.length = n) :
    element m n ring (coeff (canonical n m ring a)) = element m n ring (coeff a) := by
  rw [element_canonical hn, polyOf, h, element_eq_mk]

/-! ### Soundness of the inverse functions -/

theorem isInverse_reduceMod {m n : ℕ} (hm : 1 < m) (hn : 0 < n) {ring : RingSel} {a : Poly} {v : ℕ → ℤ} :
    IsInverse n m ring (coeff (reduceMod n m a)) v ↔ IsInverse n m ring (coeff a) v := by
  rw [isInverse_iff_element hm hn, element_reduceMod, isInverse_iff_element hm hn]

/-- A certified canonical candidate is the canonical inverse. -/
theorem inverse_of_certify {m n : ℕ} (hm : 1 < m) (hn : 1 < n) {ring : RingSel} {a u v : Poly}
    (h : certify n m ring (reduceMod n m a) (canonical n m ring u) = some v) :
    IsInverse n m ring (coeff a) (coeff v) ∧ IsCanonical n m ring (coeff v) := by
  obtain ⟨hinv, rfl⟩ := (certify_eq_some_iff (by exact_mod_cast hm) hn).1 h
  exact ⟨(isInverse_reduceMod hm (Nat.zero_lt_of_lt hn)).1 hinv,
    isCanonical_canonical (by omega) (Nat.zero_lt_of_lt hn) ring u⟩

theorem inverse_of_invPrime {m n : ℕ} (hm : 1 < m) (hn : 1 < n) {ring : RingSel} {a v : Poly}
    (h : invPrime n m ring a = some v) : IsInverse n m ring (coeff a) (coeff v) ∧ IsCanonical n m ring (coeff v) :=
  inverse_of_certify hm hn h

theorem one_lt_n {p : Params} (hp : p.wf = true) : 1 < p.n := by have := params_bounds hp; omega

theorem one_lt_q {p : Params} (hp : p.wf = true) : 1 < p.q :=
  Nat.one_lt_two_pow (by have := params_bounds hp; omega)

theorem inverse_of_invQ {p : Params} (hp : p.wf = true) {ring : RingSel} {a v : Poly} (h : invQ p ring a = some v) :
    IsInverse p.n p.q ring (coeff a) (coeff v) ∧ IsCanonical p.n p.q ring (coeff v) := by
  unfold invQ at h
  split at h
  · cases h
  · exact inverse_of_certify (one_lt_q hp) (one_lt_n hp) h

/-! ### The Newton steps (R129) -/

/-- A Newton step in the ring is v·(2 − a·v). -/
theorem element_newton_succ {m n : ℕ} (hn : 0 < n) (ring : RingSel) (a v : Poly) (k : ℕ) :
    ∃ u, newton n m a (k + 1) v = newton n m a k u ∧
      element m n ring (coeff u) =
        element m n ring (coeff v) * (2 - element m n ring (coeff a) * element m n ring (coeff v)) := by
  refine ⟨_, rfl, ?_⟩
  have htwo : element m n ring (coeff (ofCoeffs n fun j => (if j = 0 then 2 else 0) - coeff (mulR n m a v) j)) =
      2 - element m n ring (coeff (mulR n m a v)) := by
    rw [element_congr fun k hk => congrArg (· % (m : ℤ)) (coeff_ofCoeffs _ hk), element, polyAt_sub, polyAt_const hn]
    norm_cast
  rw [element_mulR, htwo, element_mulR]

/-- Each Newton step squares the error 1 − a·v: what divides it doubles its exponent. -/
theorem pow_dvd_newton {m n : ℕ} (hn : 0 < n) (ring : RingSel) (a : Poly) (d : RingOf m n ring) (k : ℕ) :
    ∀ v, d ∣ 1 - element m n ring (coeff a) * element m n ring (coeff v) →
      d ^ 2 ^ k ∣ 1 - element m n ring (coeff a) * element m n ring (coeff (newton n m a k v)) := by
  induction k generalizing d with
  | zero => intro v h; simpa [newton] using h
  | succ k ih =>
    intro v h
    obtain ⟨u, hnewton, hu⟩ := element_newton_succ hn ring a v k
    have herr : 1 - element m n ring (coeff a) * element m n ring (coeff u) =
        (1 - element m n ring (coeff a) * element m n ring (coeff v)) ^ 2 := by
      rw [hu]; ring
    rw [hnewton, pow_succ', pow_mul]
    exact ih (d ^ 2) u (herr ▸ pow_dvd_pow_of_dvd h 2)

theorem length_newton {n : ℕ} {m : ℤ} (a : Poly) (k : ℕ) : ∀ v, v.length = n → (newton n m a k v).length = n := by
  induction k with
  | zero => exact fun _ h => h
  | succ k ih => exact fun _ _ => ih _ (length_ofCoeffs _ _)

/-- NEWTON_STEPS is enough: 2^NEWTON_STEPS is no less than LOGQ (R9). -/
theorem logq_le_two_pow_newtonSteps (p : Params) : p.logq ≤ 2 ^ p.newtonSteps := by
  by_contra! hlt
  have hsub : (List.range (p.newtonSteps + 1)).Sublist (List.range p.logq) :=
    List.range_sublist.2 (Nat.lt_two_pow_self.trans hlt)
  have hall : (List.range (p.newtonSteps + 1)).countP (fun s => 2 ^ s < p.logq) = p.newtonSteps + 1 := by
    rw [List.countP_eq_length.2, List.length_range]
    intro s hs
    have hs' : s ≤ p.newtonSteps := Nat.le_of_lt_succ (List.mem_range.1 hs)
    exact decide_eq_true ((Nat.pow_le_pow_right two_pos hs').trans_lt hlt)
  have hcount := hsub.countP_le (p := fun s => 2 ^ s < p.logq)
  rw [hall] at hcount
  exact absurd hcount (Nat.not_succ_le_self _)

/-- R129: from an inverse mod 2 the Newton steps reach an inverse mod Q. -/
theorem isInverse_newton {p : Params} (hp : p.wf = true) {ring : RingSel} {a v : Poly} (hlen : v.length = p.n)
    (h : IsInverse p.n 2 ring (coeff a) (coeff v)) :
    IsInverse p.n p.q ring (coeff (reduceMod p.n p.q a))
      (coeff (canonical p.n p.q ring (newton p.n p.q (reduceMod p.n p.q a) p.newtonSteps v))) := by
  have hn : 0 < p.n := Nat.zero_lt_of_lt (one_lt_n hp)
  have hstart : (2 : RingOf p.q p.n ring) ∣
      1 - element p.q p.n ring (coeff (reduceMod p.n p.q a)) * element p.q p.n ring (coeff v) := by
    rw [element_reduceMod]
    exact_mod_cast (isRootOf_root p.q p.n ring).natCast_dvd_of_isInverse (d := 2) hn h
  have hzero : (2 : RingOf p.q p.n ring) ^ 2 ^ p.newtonSteps = 0 := by
    have hq : (2 : RingOf p.q p.n ring) ^ p.logq = 0 := by
      rw [← natCast_ringOf p.q p.n ring, Params.q]
      push_cast
      rfl
    exact pow_eq_zero_of_le (logq_le_two_pow_newtonSteps p) hq
  have hend := pow_dvd_newton hn ring (reduceMod p.n p.q a) 2 p.newtonSteps v hstart
  rw [hzero, zero_dvd_iff, sub_eq_zero] at hend
  rw [isInverse_iff_element (one_lt_q hp) hn, element_canonical_of_length hn ring (length_newton _ _ _ hlen)]
  exact hend.symm

/-- An inverse mod Q is an inverse mod 2, as 2 divides Q (R128). -/
theorem isInverse_two_of_q {p : Params} (hp : p.wf = true) {ring : RingSel} {a v : ℕ → ℤ}
    (h : IsInverse p.n p.q ring a v) : IsInverse p.n 2 ring a v := by
  have hdvd : (2 : ℤ) ∣ p.q := by
    have hlog : p.logq ≠ 0 := by have := params_bounds hp; omega
    exact_mod_cast dvd_pow_self 2 hlog
  exact ringEq_iff_normal.2 fun k hk => Int.ModEq.of_dvd hdvd (ringEq_iff_normal.1 h k hk)

/-- INVQ answers exactly where INV2 does (R128). -/
theorem isSome_invQ {p : Params} (hp : p.wf = true) (ring : RingSel) (a : Poly) :
    (invQ p ring a).isSome = (invPrime p.n 2 ring a).isSome := by
  have hn : 1 < p.n := one_lt_n hp
  unfold invQ
  dsimp only
  split
  · next h => simp [h]
  · next v h =>
    have hinv := isInverse_newton hp (length_of_invPrime h) (inverse_of_invPrime one_lt_two hn h).1
    rw [(certify_eq_some_iff (by exact_mod_cast one_lt_q hp) hn).2 ⟨hinv, rfl⟩, h]
    rfl

end Sys2Proof.Machine
end

section
/-! SUPPORT. The extended Euclidean algorithm of `invPrime` over the field of 2 or 3 elements: each turn keeps r ≡ t·a modulo the
modulus polynomial and the two remainders coprime, and the fuel suffices. So an invertible operand is inverted. -/

namespace Sys2Proof.Machine

open Sys2Proof.Claims
open Polynomial (X C)

/-! ### Lists as polynomials -/

theorem trim_eq_rdropWhile (a : Poly) : trim a = a.rdropWhile fun x => decide (x = 0) := rfl

/-- Only zero coefficients are dropped. -/
@[simp] theorem coeff_trim (a : Poly) (k : ℕ) : coeff (trim a) k = coeff a k := by
  obtain ⟨z, hsplit, hzero⟩ : ∃ z, trim a ++ z = a ∧ ∀ x ∈ z, x = 0 :=
    ⟨a.rtakeWhile fun x => decide (x = 0), List.rdropWhile_append_rtakeWhile, fun x hx => by
      simpa using List.mem_rtakeWhile_imp hx⟩
  generalize trim a = u at hsplit
  rw [← hsplit, coeff, coeff]
  rcases lt_or_ge k u.length with hk | hk
  · rw [List.getD_append _ _ _ _ hk]
  · rw [List.getD_append_right _ _ _ _ hk, List.getD_eq_default _ _ hk, List.getD_eq_getElem?_getD]
    cases hget : z[k - u.length]? with
    | none => rfl
    | some x => exact (hzero x (List.mem_of_getElem? hget)).symm

@[simp] theorem polyOf_trim (m : ℕ) (a : Poly) : polyOf m (trim a) = polyOf m a :=
  Polynomial.ext fun k => by rw [coeff_polyOf, coeff_trim, coeff_polyOf]

@[simp] theorem polyOf_nil (m : ℕ) : polyOf m [] = 0 := rfl

@[simp] theorem polyOf_one (m : ℕ) : polyOf m [1] = 1 := by simp [polyOf, polyAt, coeff]

/-- The last coefficient of a list is not 0 mod m: the list ends at its degree. -/
def LeadNonzero (m : ℕ) (a : Poly) : Prop := a.length ≠ 0 → (coeff a (a.length - 1) : ZMod m) ≠ 0

theorem LeadNonzero.length_le {m : ℕ} {a : Poly} (h : LeadNonzero m a) {N : ℕ}
    (hN : ∀ k, N ≤ k → (coeff a k : ZMod m) = 0) : a.length ≤ N := by
  by_contra! hlt
  exact h (by omega) (hN _ (by omega))

/-- A trimmed list of residues ends at its degree. -/
theorem leadNonzero_trim {m : ℕ} {a : Poly} (h : ∀ k, 0 ≤ coeff a k ∧ coeff a k < m) : LeadNonzero m (trim a) := by
  intro hlen hzero
  obtain ⟨hnonneg, hlt⟩ := h ((trim a).length - 1)
  rw [coeff_trim] at hzero
  have hlast : coeff a ((trim a).length - 1) = 0 :=
    Int.eq_zero_of_dvd_of_nonneg_of_lt hnonneg hlt ((ZMod.intCast_zmod_eq_zero_iff_dvd _ _).1 hzero)
  have hne : a.rdropWhile (fun x => decide (x = 0)) ≠ [] := List.ne_nil_of_length_pos (Nat.pos_of_ne_zero hlen)
  refine List.rdropWhile_last_not _ _ hne (decide_eq_true ?_)
  rw [← coeff_trim, coeff, List.getD_eq_getElem _ _ (by omega)] at hlast
  rw [List.getLast_eq_getElem]
  exact hlast

/-! ### One turn of the algorithm -/

theorem coeff_subShifted (m : ℤ) (a : Poly) (c : ℤ) (sh : ℕ) (b : Poly) (k : ℕ) :
    coeff (subShifted m a c sh b) k = (coeff a k - if sh ≤ k then c * coeff b (k - sh) else 0) % m := by
  rw [subShifted, coeff_trim]
  rcases lt_or_ge k (max a.length (b.length + sh)) with hk | hk
  · exact coeff_ofCoeffs _ hk
  · rw [coeff_of_length_le (by simpa using hk), coeff_of_length_le (a := a) (by omega),
      coeff_of_length_le (a := b) (by omega)]
    simp

theorem polyOf_subShifted (m : ℕ) (a : Poly) (c : ℤ) (sh : ℕ) (b : Poly) :
    polyOf m (subShifted m a c sh b) = polyOf m a - C (c : ZMod m) * X ^ sh * polyOf m b := by
  ext k
  rw [Polynomial.coeff_sub, mul_assoc, Polynomial.coeff_C_mul, Polynomial.coeff_X_pow_mul', coeff_polyOf, coeff_polyOf,
    coeff_polyOf, coeff_subShifted, ZMod.intCast_mod]
  split <;> push_cast <;> simp

theorem leadNonzero_subShifted {m : ℕ} (hm : 0 < m) (a : Poly) (c : ℤ) (sh : ℕ) (b : Poly) :
    LeadNonzero m (subShifted m a c sh b) := by
  refine leadNonzero_trim fun k => ?_
  have hres := coeff_subShifted m a c sh b k
  rw [subShifted, coeff_trim] at hres
  rw [hres]
  exact ⟨Int.emod_nonneg _ (by omega), Int.emod_lt_of_pos _ (by omega)⟩

/-- Where a nonzero residue is its own inverse, subtracting the multiple with the product of the leading coefficients cancels
the leading coefficient. -/
theorem length_subShifted_lt {m : ℕ} (hm : 0 < m) (hself : ∀ c : ZMod m, c ≠ 0 → c * c = 1) {a b : Poly}
    (hb : LeadNonzero m b) (hpos : b.length ≠ 0) (hle : b.length ≤ a.length) :
    (subShifted m a (coeff a (a.length - 1) * coeff b (b.length - 1)) (a.length - b.length) b).length < a.length := by
  suffices h : (subShifted m a (coeff a (a.length - 1) * coeff b (b.length - 1)) (a.length - b.length) b).length ≤
      a.length - 1 by omega
  refine (leadNonzero_subShifted hm _ _ _ _).length_le fun k hk => ?_
  rw [coeff_subShifted, ZMod.intCast_mod, if_pos (by omega)]
  rcases hk.eq_or_lt with rfl | hlt
  · have hcancel := hself _ (hb hpos)
    rw [show a.length - 1 - (a.length - b.length) = b.length - 1 by omega]
    push_cast
    rw [mul_assoc, hcancel, mul_one, sub_self]
  · have hka : a.length ≤ k := by omega
    have hkb : b.length ≤ k - (a.length - b.length) := by omega
    rw [coeff_of_length_le hka, coeff_of_length_le hkb]
    simp

/-- What the algorithm keeps of a pair: r ends at its degree, and r ≡ t·a modulo M. -/
structure Combination (m : ℕ) (M a : Polynomial (ZMod m)) (r t : Poly) : Prop where
  lead : LeadNonzero m r
  dvd : M ∣ polyOf m r - polyOf m t * a

theorem Combination.subShifted {m : ℕ} (hm : 0 < m) {M a : Polynomial (ZMod m)} {r0 t0 r1 t1 : Poly}
    (h0 : Combination m M a r0 t0) (h1 : Combination m M a r1 t1) (c : ℤ) (sh : ℕ) :
    Combination m M a (subShifted m r0 c sh r1) (subShifted m t0 c sh t1) where
  lead := leadNonzero_subShifted hm r0 c sh r1
  dvd := by
    have hsub := dvd_sub h0.dvd (h1.dvd.mul_left (C (c : ZMod m) * X ^ sh))
    rw [polyOf_subShifted, polyOf_subShifted]
    convert hsub using 1
    ring

theorem isCoprime_subShifted {m : ℕ} {r0 r1 : Poly} (h : IsCoprime (polyOf m r0) (polyOf m r1)) (c : ℤ) (sh : ℕ) :
    IsCoprime (polyOf m (subShifted m r0 c sh r1)) (polyOf m r1) := by
  refine IsCoprime.of_add_mul_right_left (z := C (c : ZMod m) * X ^ sh) ?_
  rwa [polyOf_subShifted, sub_add_cancel]

/-! ### The whole run -/

/-- A bound on the turns still to come: a subtraction shortens r0, and no two swaps follow each other. -/
def turnsLeft (r0 r1 : Poly) : ℕ := 2 * (r0.length + r1.length) + if r0.length < r1.length then 1 else 0

/-- From coprime remainders the algorithm ends with a unit and its cofactor. -/
theorem euclid_spec {m : ℕ} (hm : 0 < m) (hself : ∀ c : ZMod m, c ≠ 0 → c * c = 1) {M a : Polynomial (ZMod m)}
    (fuel : ℕ) :
    ∀ {r0 t0 r1 t1 : Poly}, Combination m M a r0 t0 → Combination m M a r1 t1 →
      IsCoprime (polyOf m r0) (polyOf m r1) → turnsLeft r0 r1 ≤ fuel →
      Combination m M a (euclid m fuel r0 t0 r1 t1).1 (euclid m fuel r0 t0 r1 t1).2 ∧
        IsUnit (polyOf m (euclid m fuel r0 t0 r1 t1).1) := by
  have hdone {r0 r1 : Poly} (hcop : IsCoprime (polyOf m r0) (polyOf m r1)) (h : r1.length = 0) : IsUnit (polyOf m r0) := by
    rwa [List.eq_nil_of_length_eq_zero h, polyOf_nil, isCoprime_zero_right] at hcop
  induction fuel with
  | zero =>
    intro r0 t0 r1 t1 h0 h1 hcop hfuel
    exact ⟨h0, hdone hcop (by unfold turnsLeft at hfuel; omega)⟩
  | succ fuel ih =>
    intro r0 t0 r1 t1 h0 h1 hcop hfuel
    unfold turnsLeft at hfuel
    rw [euclid]
    split
    · exact ⟨h0, hdone hcop ‹_›⟩
    · next hpos =>
      split
      · next hlt =>
        refine ih h1 h0 hcop.symm ?_
        rw [if_pos hlt] at hfuel
        rw [turnsLeft, if_neg (by omega)]
        omega
      · next hle =>
        have hshort := length_subShifted_lt hm hself h1.lead hpos (not_lt.1 hle)
        refine ih (h0.subShifted hm h1 _ _) h1 (isCoprime_subShifted hcop _ _) ?_
        rw [turnsLeft]
        split <;> omega

/-! ### The inverse modulo a prime -/

theorem polyOf_modulusPoly {m n : ℕ} (hn : 0 < n) (ring : RingSel) :
    polyOf m (modulusPoly n m ring) = ringModulus m n ring := by
  ext k
  rw [coeff_polyOf]
  cases ring with
  | sPhi =>
    rw [ringModulus, Polynomial.finsetSum_coeff]
    rcases lt_or_ge k n with hk | hk
    · simp [modulusPoly, coeff_ofCoeffs _ hk, Polynomial.coeff_X_pow, hk]
    · simp [modulusPoly, coeff_of_length_le, Polynomial.coeff_X_pow, hk]
  | rXn =>
    rw [ringModulus, Polynomial.coeff_sub, Polynomial.coeff_X_pow, Polynomial.coeff_C]
    rcases lt_or_ge k (n + 1) with hk | hk
    · rw [modulusPoly, coeff_ofCoeffs _ hk]
      rcases eq_or_ne k 0 with rfl | h0
      · simp [hn.ne, ZMod.intCast_mod]
      · by_cases hkn : k = n <;> simp [h0, hkn, hn.ne']
    · rw [modulusPoly, coeff_of_length_le (by simpa using hk), if_neg (by omega), if_neg (by omega)]
      simp

theorem leadNonzero_modulusPoly {m n : ℕ} (hm : 1 < m) (hn : 0 < n) (ring : RingSel) :
    LeadNonzero m (modulusPoly n m ring) := by
  have : Fact (1 < m) := ⟨hm⟩
  intro _
  cases ring with
  | sPhi => simp [modulusPoly, coeff_ofCoeffs _ (Nat.sub_one_lt_of_lt hn)]
  | rXn => simp [modulusPoly, coeff_ofCoeffs _ (Nat.lt_succ_self n), hn.ne']

/-- An operand that is invertible in the ring is coprime to the modulus polynomial. -/
theorem isCoprime_of_isInverse {m n : ℕ} (hm : 1 < m) (hn : 0 < n) {ring : RingSel} {a v : ℕ → ℤ}
    (h : IsInverse n m ring a v) : IsCoprime (ringModulus m n ring) (polyAt X n a) := by
  rw [isInverse_iff_element hm hn, element_eq_mk, element_eq_mk, ← map_mul, ← map_one (AdjoinRoot.mk _),
    AdjoinRoot.mk_eq_mk] at h
  obtain ⟨w, hw⟩ := h
  exact ⟨-w, polyAt X n v, by linear_combination hw⟩

/-- The operand reduced mod m, as a polynomial. -/
theorem polyOf_reduceMod (m n : ℕ) (a : Poly) : polyOf m (reduceMod n m a) = polyAt X n (coeff (reduceMod n m a)) := by
  rw [polyOf, reduceMod, length_ofCoeffs]

theorem polyOf_map_mul (m : ℕ) (a : Poly) (c : ℤ) : polyOf m (a.map fun t => t * c) = polyOf m a * C (c : ZMod m) := by
  ext k
  have hmap : coeff (a.map fun t => t * c) k = coeff a k * c := by
    rw [coeff, List.getD_eq_getElem?_getD, List.getElem?_map, coeff, List.getD_eq_getElem?_getD]
    cases a[k]? <;> simp
  rw [Polynomial.coeff_mul_C, coeff_polyOf, coeff_polyOf, hmap, Int.cast_mul]

theorem residue_reduceMod {m : ℕ} (hm : 0 < m) (n : ℕ) (a : Poly) (k : ℕ) :
    0 ≤ coeff (reduceMod n m a) k ∧ coeff (reduceMod n m a) k < m := by
  rcases lt_or_ge k n with hk | hk
  · rw [coeff_reduceMod hk]
    exact ⟨Int.emod_nonneg _ (by omega), Int.emod_lt_of_pos _ (by omega)⟩
  · rw [coeff_of_length_le (by simpa [reduceMod] using hk)]
    omega

/-- The lengths that the algorithm starts from leave it no more turns than its fuel. -/
theorem turnsLeft_start {m : ℕ} (hm : 0 < m) (n : ℕ) (ring : RingSel) (a : Poly) :
    turnsLeft (modulusPoly n m ring) (trim (reduceMod n m a)) ≤ 4 * n + 8 := by
  have hmodulus : (modulusPoly n m ring).length ≤ n + 1 := by cases ring <;> simp [modulusPoly]
  have hoperand : (trim (reduceMod n m a)).length ≤ n :=
    (leadNonzero_trim (residue_reduceMod hm n a)).length_le fun k hk => by
      rw [coeff_trim, coeff_of_length_le (by simpa [reduceMod] using hk), Int.cast_zero]
  unfold turnsLeft
  split <;> omega

/-- The run of `invPrime` on an invertible operand ends with a unit and its cofactor. -/
theorem euclid_of_isInverse {m n : ℕ} (hm : 1 < m) (hself : ∀ c : ZMod m, c ≠ 0 → c * c = 1) (hn : 0 < n) {ring : RingSel}
    {a : Poly} {v : ℕ → ℤ} (h : IsInverse n m ring (coeff a) v) :
    ∃ r t, euclid m (4 * n + 8) (modulusPoly n m ring) [] (trim (reduceMod n m a)) [1] = (r, t) ∧
      ringModulus m n ring ∣ polyOf m r - polyOf m t * polyOf m (reduceMod n m a) ∧ IsUnit (polyOf m r) := by
  have hm0 : 0 < m := Nat.zero_lt_of_lt hm
  have hcop := isCoprime_of_isInverse hm hn ((isInverse_reduceMod hm hn).2 h)
  rw [← polyOf_reduceMod, ← polyOf_modulusPoly hn, ← polyOf_trim m (reduceMod n m a)] at hcop
  have hmodulus : Combination m (ringModulus m n ring) (polyOf m (reduceMod n m a)) (modulusPoly n m ring) [] :=
    ⟨leadNonzero_modulusPoly hm hn ring, by simp [polyOf_modulusPoly hn]⟩
  have hoperand : Combination m (ringModulus m n ring) (polyOf m (reduceMod n m a)) (trim (reduceMod n m a)) [1] :=
    ⟨leadNonzero_trim (residue_reduceMod hm0 n a), by simp⟩
  obtain ⟨hcomb, hunit⟩ := euclid_spec hm0 hself _ hmodulus hoperand hcop (turnsLeft_start hm0 n ring a)
  exact ⟨_, _, rfl, hcomb.dvd, hunit⟩

/-- A unit remainder is a constant that is its own inverse, so its multiple of the cofactor is an inverse. -/
theorem dvd_cofactor_mul_sub_one {m : ℕ} [Fact m.Prime] (hself : ∀ c : ZMod m, c ≠ 0 → c * c = 1)
    {M a : Polynomial (ZMod m)} {r t : Poly} (hdvd : M ∣ polyOf m r - polyOf m t * a) (hunit : IsUnit (polyOf m r)) :
    M ∣ a * polyOf m (t.map fun x => x * coeff r 0) - 1 := by
  obtain ⟨c, hc, hrc⟩ := Polynomial.isUnit_iff.1 hunit
  have hconst : (coeff r 0 : ZMod m) = c := by rw [← coeff_polyOf, ← hrc, Polynomial.coeff_C_zero]
  have hsquare : C c * C c = 1 := by rw [← map_mul, hself c hc.ne_zero, map_one]
  have heq : a * polyOf m (t.map fun x => x * coeff r 0) - 1 = -((polyOf m r - polyOf m t * a) * C c) := by
    rw [polyOf_map_mul, hconst, ← hrc]
    linear_combination hsquare
  rw [heq]
  exact (hdvd.mul_right _).neg_right

/-- R124: over the field of 2 or 3 elements an invertible operand is inverted. -/
theorem isSome_invPrime {m n : ℕ} [Fact m.Prime] (hself : ∀ c : ZMod m, c ≠ 0 → c * c = 1) (hn : 1 < n) {ring : RingSel}
    {a : Poly} (h : ∃ v, IsInverse n m ring (coeff a) v) : (invPrime n m ring a).isSome := by
  have hm : 1 < m := (Fact.out : m.Prime).one_lt
  have hn0 : 0 < n := Nat.zero_lt_of_lt hn
  obtain ⟨v, hv⟩ := h
  obtain ⟨r, t, hrun, hdvd, hunit⟩ := euclid_of_isInverse hm hself hn0 hv
  have hinv : IsInverse n m ring (coeff (reduceMod n m a)) (coeff (canonical n m ring (t.map fun x => x * coeff r 0))) := by
    rw [isInverse_iff_element hm hn0, element_canonical hn0, element_eq_mk, ← polyOf_reduceMod, ← map_mul,
      ← map_one (AdjoinRoot.mk _), AdjoinRoot.mk_eq_mk]
    exact dvd_cofactor_mul_sub_one hself hdvd hunit
  have hcert := (certify_eq_some_iff (by exact_mod_cast hm) hn).2 ⟨hinv, rfl⟩
  simp only [invPrime, hrun, hcert, Option.isSome_some]

end Sys2Proof.Machine
end

section
/-! SUPPORT. What an inverse command leaves in its slot, and the statements about the inverse commands and functions. -/

namespace Sys2Proof.Machine

open Sys2Proof.Claims

/-- R124: the answers of the inverse functions, as a command's destination needs them. -/
def AnswersInverse (n : ℕ) (m : ℤ) (ring : RingSel) (a : ℕ → ℤ) (answer : Option Poly) : Prop :=
  (∀ v, answer = some v → v.length = n ∧ IsInverse n m ring a (coeff v) ∧ IsCanonical n m ring (coeff v)) ∧
    ((∃ v, IsInverse n m ring a v) → answer.isSome)

theorem isInverse_congr {n : ℕ} {m : ℤ} {ring : RingSel} {a b v : ℕ → ℤ} (h : ∀ k < n, a k = b k) :
    IsInverse n m ring a v ↔ IsInverse n m ring b v := by
  have hcyc : cyc n a v = cyc n b v := funext fun k => Finset.sum_congr rfl fun i hi => by
    rw [h i (Finset.mem_range.1 hi)]
  rw [IsInverse, IsInverse, hcyc]

theorem answersInverse_congr {n : ℕ} {m : ℤ} {ring : RingSel} {a b : ℕ → ℤ} {answer : Option Poly} (h : ∀ k < n, a k = b k)
    (ha : AnswersInverse n m ring a answer) : AnswersInverse n m ring b answer := by
  obtain ⟨hsound, hcomplete⟩ := ha
  refine ⟨fun v hv => ?_, fun ⟨v, hv⟩ => hcomplete ⟨v, (isInverse_congr h).2 hv⟩⟩
  rw [← isInverse_congr h]
  exact hsound v hv

theorem answersInverse_invPrime {m n : ℕ} [Fact m.Prime] (hself : ∀ c : ZMod m, c ≠ 0 → c * c = 1) (hn : 1 < n)
    (ring : RingSel) (a : Poly) : AnswersInverse n m ring (coeff a) (invPrime n m ring a) :=
  ⟨fun _ h => ⟨length_of_invPrime h, inverse_of_invPrime (Fact.out : m.Prime).one_lt hn h⟩, isSome_invPrime hself hn⟩

theorem answersInverse_two {n : ℕ} (hn : 1 < n) (ring : RingSel) (a : Poly) :
    AnswersInverse n 2 ring (coeff a) (invPrime n 2 ring a) :=
  answersInverse_invPrime (m := 2) (by decide) hn ring a

theorem answersInverse_three {n : ℕ} (hn : 1 < n) (ring : RingSel) (a : Poly) :
    AnswersInverse n 3 ring (coeff a) (invPrime n 3 ring a) :=
  answersInverse_invPrime (m := 3) (by decide) hn ring a

/-- INVQ answers where there is an inverse mod 2, so where there is one mod Q. -/
theorem answersInverse_invQ {p : Params} (hp : p.wf = true) (ring : RingSel) (a : Poly) :
    AnswersInverse p.n p.q ring (coeff a) (invQ p ring a) := by
  refine ⟨fun v h => ⟨length_of_invQ h, inverse_of_invQ hp h⟩, fun ⟨v, hv⟩ => ?_⟩
  rw [isSome_invQ hp]
  exact (answersInverse_two (one_lt_n hp) ring a).2 ⟨v, isInverse_two_of_q hp hv⟩

/-- The residues mod m of an inverse are an inverse mod m. -/
theorem isInverse_emod {m n : ℕ} (hm : 1 < m) (hn : 0 < n) {ring : RingSel} {a v : ℕ → ℤ} (h : IsInverse n m ring a v) :
    IsInverse n m ring a fun k => v k % m := by
  rw [isInverse_iff_element hm hn] at h ⊢
  rwa [element_congr fun k _ => Int.emod_emod (v k) m]

theorem isCanonical_emod {m n : ℕ} (hm : 0 < m) {ring : RingSel} {v : ℕ → ℤ} (hlast : ring = .sPhi → v (n - 1) = 0) :
    IsCanonical n m ring fun k => v k % m := by
  have hm' : (0 : ℤ) < m := by exact_mod_cast hm
  refine ⟨fun k _ => ⟨Int.emod_nonneg _ hm'.ne', Int.emod_lt_of_pos _ hm'⟩, fun hring => ?_⟩
  simp only [hlast hring, Int.zero_emod]

/-- A completion with such an answer leaves the inverse if there is one, and else free values: a canonical inverse is the
one answered, as there is only one. -/
theorem completeSlotDrawn_leavesInverse {s : State} {d : SlotIx} {m : ℕ} {ring : RingSel} {a : ℕ → ℤ} {answer : Option Poly}
    (hd : d.toNat < 8) (hm : 1 < m) (hn : 1 < s.params.n) (h : AnswersInverse s.params.n m ring a answer) :
    ∃ t, completeSlotDrawn s d (wordsOrUnspec s.params.n (answer.map toWords)) .ok = .next t ∧ Completed t .ok ∧
      LeavesInverse s t d m ring a := by
  obtain ⟨hsound, hcomplete⟩ := h
  cases answer with
  | none =>
    obtain ⟨t, ht, hdone, hfree⟩ := completeSlotDrawn_writes (s := s) (ws := wordsOrUnspec s.params.n none)
      (w := fun k => Config.freeWord (s.draws + k)) hd (fun k hk => by simp [hk]) .ok
    exact ⟨t, ht, hdone, fun v _ hv => absurd (hcomplete ⟨v, hv⟩) (by simp), fun _ => hfree⟩
  | some u =>
    obtain ⟨hlen, hinv, hcan⟩ := hsound u rfl
    obtain ⟨t, ht, hdone, hwrites⟩ := completeSlotDrawn_writes (ws := wordsOrUnspec s.params.n (some (toWords u)))
      (w := fun k => wordOf (coeff u k)) hd (fun k hk => by simp [toWords_getElem? (hlen ▸ hk)]) .ok
    refine ⟨t, ht, hdone, fun v hvcan hv k hk => ?_, fun hno => absurd ⟨_, hinv⟩ hno⟩
    have heq := canonicalInverse_unique hm (Nat.zero_lt_of_lt hn) hvcan hv hcan hinv k hk
    simpa only [heq, wordOf] using hwrites k hk

/-- The operand of an inverse command is the snapshot of its slot. -/
theorem coeff_polyA (f : Flight) {n k : ℕ} (hk : k < n) : coeff (f.polyA n) k = (wordN f.inA k : ℤ) := coeff_values hk f.inA

end Sys2Proof.Machine

namespace Sys2Proof.Proofs

open Sys2Proof Sys2Proof.Machine Sys2Proof.Claims

/-- Settles O11: the Euclidean algorithm answers exactly where there is an inverse, and with the canonical one. -/
theorem inv2Inv3WriteInverse : Obligations.Inv2Inv3WriteInverse := by
  intro s f d a ring hp hf hd
  have hn := one_lt_n hp
  constructor
  · have hexec : exec (.inv2 d a ring) s = completeSlotDrawn s d (wordsOrUnspec s.params.n
        ((invPrime s.params.n 2 ring (f.polyA s.params.n)).map toWords)) .ok := whileInFlight_of hf _
    rw [hexec]
    exact completeSlotDrawn_leavesInverse (m := 2) hd one_lt_two hn
      (answersInverse_congr (fun _ => coeff_polyA f) (answersInverse_two hn ring _))
  · have hexec : exec (.inv3 d a ring) s = completeSlotDrawn s d (wordsOrUnspec s.params.n
        ((invPrime s.params.n 3 ring (f.polyA s.params.n)).map toWords)) .ok := whileInFlight_of hf _
    rw [hexec]
    exact completeSlotDrawn_leavesInverse (m := 3) hd (by decide) hn
      (answersInverse_congr (fun _ => coeff_polyA f) (answersInverse_three hn ring _))

/-- Settles O12: the Newton steps reach an inverse mod Q from the inverse mod 2, which exists where one mod Q does. -/
theorem invqWritesInverse : Obligations.InvqWritesInverse := by
  intro s f d a ring hp hf hd
  have hexec : exec (.invq d a ring) s = completeSlotDrawn s d (wordsOrUnspec s.params.n
      ((invQ s.params ring (f.polyA s.params.n)).map toWords)) .ok := whileInFlight_of hf _
  rw [hexec]
  exact completeSlotDrawn_leavesInverse hd (one_lt_q hp) (one_lt_n hp)
    (answersInverse_congr (fun _ => coeff_polyA f) (answersInverse_invQ hp ring _))

/-- Settles O13: an answer is certified by multiplication and in canonical form. -/
theorem answeredInverseIsInverse : Obligations.AnsweredInverseIsInverse := by
  intro p ring a v hp
  refine ⟨fun m hm h => ?_, inverse_of_invQ hp⟩
  rcases hm with rfl | rfl
  · exact ((answersInverse_two (one_lt_n hp) ring a).1 v h).2
  · exact ((answersInverse_three (one_lt_n hp) ring a).1 v h).2

/-- Settles O14: an inverse mod Q is one mod 2; from one mod 2 the Newton steps construct one mod Q; and the inverses that the
commands compute agree mod 2, as the canonical inverse mod 2 is unique. -/
theorem invertibleModQIffMod2 : Obligations.InvertibleModQIffMod2 := by
  intro p ring a hp
  have hn := one_lt_n hp
  have htwo := answersInverse_two hn ring a
  have hq := answersInverse_invQ hp ring a
  refine ⟨⟨fun ⟨v, hv⟩ => ⟨v, isInverse_two_of_q hp hv⟩, fun h => ?_⟩, fun v => isInverse_two_of_q hp, isSome_invQ hp ring a,
    fun v w hv hw k hk => ?_⟩
  · obtain ⟨v, hv⟩ := Option.isSome_iff_exists.1 ((isSome_invQ hp ring a).trans (htwo.2 h))
    exact ⟨coeff v, (hq.1 v hv).2.1⟩
  · obtain ⟨-, hvinv, -, hvlast⟩ := hq.1 v hv
    obtain ⟨-, hwinv, hwcan⟩ := htwo.1 w hw
    have hn0 : 0 < p.n := Nat.zero_lt_of_lt hn
    exact canonicalInverse_unique (m := 2) one_lt_two hn0 (isCanonical_emod two_pos hvlast)
      (isInverse_emod (m := 2) one_lt_two hn0 (isInverse_two_of_q hp hvinv)) hwcan hwinv k hk

end Sys2Proof.Proofs
end

section
/-! SUPPORT. The conversions of 41_conversions.md by coefficient: the tables of R151 to R153, the centred window of R154 and
R155, the lifts of R156, and what a command leaves of them in its slot. -/

namespace Sys2Proof.Machine

open Sys2Proof.Claims

/-! ### The tables (R151 to R153) -/

/-- The table 0 ↦ 0, 1 ↦ 1, top ↦ r of a conversion, UNSPEC at every other value. -/
def tritTable (top r v : ℤ) : Option ℤ :=
  if v = 0 then some 0 else if v = 1 then some 1 else if v = top then some r else none

theorem z3ToZq_eq_tritTable (p : Params) (x : ℤ) : z3ToZq p x = tritTable 2 (p.q - 1) x := rfl

theorem zqToZ3_eq_tritTable (p : Params) (x : ℤ) : zqToZ3 p x = tritTable (p.q - 1) 2 (x % p.q) := rfl

theorem zqToS_eq_tritTable (p : Params) (x : ℤ) : zqToS p x = tritTable (p.q - 1) (-1) (x % p.q) := rfl

/-- The word of a table's value, with the free value `free` where the table has none. -/
theorem getD_tritTable (top : ℕ) (r : ℤ) (v : ℕ) (free : Word) :
    ((tritTable top r v).map wordOf).getD free =
      if v = 0 then 0 else if v = 1 then 1 else if v = top then wordOf r else free := by
  unfold tritTable
  norm_cast
  split_ifs <;> rfl

/-- A conversion of the snapshot leaves at each coefficient the word of its value there, or a free value (R150). -/
theorem completes_conversion {i : Instr} {s : State} {f : Flight} {d : SlotIx} {g : ℤ → Option ℤ} {w : ℕ → Word}
    (hd : d.toNat < 8)
    (hexec : exec i s = completeSlotDrawn s d (convertedWords (convertEach s.params.n g (f.polyA s.params.n))) .ok)
    (hw : ∀ k, ((g (wordN f.inA k)).map wordOf).getD (Config.freeWord (s.draws + k)) = w k) :
    ∃ t, exec i s = .next t ∧ Completed t .ok ∧ Writes s t d w := by
  rw [hexec]
  exact completeSlotDrawn_writes hd (fun k hk => by simp [convertedWords, convertEach, hk, coeff_polyA f hk, hw]) .ok

/-! ### The centred window (R154, R155) -/

/-- R154 with the window written as 2·v ≥ Q, which is v ≥ Q/2 as Q is even. -/
theorem centred_eq {p : Params} (hp : p.wf = true) (x : ℤ) :
    centred p x = if 2 * (x % p.q) ≥ p.q then x % p.q - p.q else x % p.q := by
  have hq : p.q = 2 * 2 ^ (p.logq - 1) := by
    have hlog : 2 ≤ p.logq := (params_bounds hp).2.1.1
    rw [Params.q, ← pow_succ', Nat.sub_add_cancel (by omega)]
  rw [centred]
  refine if_congr ?_ rfl rfl
  omega

/-- R155: a residue mod Q inside the window is its own centred representative. -/
theorem centred_eq_of_emod_eq {p : Params} (hp : p.wf = true) {x y : ℤ} (hxy : x % p.q = y % p.q)
    (hlow : -(p.q : ℤ) ≤ 2 * y) (hhigh : 2 * y < p.q) : centred p x = y := by
  rw [centred_eq hp, hxy]
  rcases lt_or_ge y 0 with hneg | hpos
  · have hmod : y % p.q = y + p.q := by
      rw [← Int.add_emod_right, Int.emod_eq_of_lt (by omega) (by omega)]
    rw [hmod, if_pos (by omega)]
    omega
  · rw [Int.emod_eq_of_lt hpos (by omega), if_neg (by omega)]

theorem coeff_phi {n k : ℕ} (hk : k < n) (m : ℤ) (a : Poly) : coeff (phi n m a) k = normal n .sPhi (coeff a) k % m := by
  rw [phi, coeff_ofCoeffs _ hk, normal]

/-- RQTOS3 subtracts the residue mod 3 of the last centred representative (R154). -/
theorem coeff_rqToS3 {p : Params} {k : ℕ} (hk : k < p.n) (a : Poly) :
    coeff (rqToS3 p a) k = (centred p (coeff a k) % 3 - centred p (coeff a (p.n - 1)) % 3) % 3 := by
  rw [rqToS3, coeff_phi hk, normal, coeff_ofCoeffs _ hk, coeff_ofCoeffs _ (Nat.sub_one_lt_of_lt hk)]

/-- R155: RQTOS3 of an element of R_Q with an integer representative inside the window is that polynomial mod (3, Φ_N). -/
theorem rqToS3_eq_phi {p : Params} (hp : p.wf = true) {a m : Poly} {y : ℕ → ℤ}
    (hay : ∀ k < p.n, coeff a k % p.q = y k % p.q) (hy : ∀ k < p.n, -(p.q : ℤ) ≤ 2 * y k ∧ 2 * y k < p.q)
    (hym : RingEq p.n 3 .sPhi y (coeff m)) : rqToS3 p a = phi p.n 3 m := by
  have hcentred : ∀ k < p.n, centred p (coeff a k) = y k := fun k hk =>
    centred_eq_of_emod_eq hp (hay k hk) (hy k hk).1 (hy k hk).2
  rw [phi, eq_ofCoeffs_iff (length_rqToS3 p a)]
  intro k hk
  have hk' : (y k - y (p.n - 1)) % 3 = _ := hym k hk
  rw [coeff_rqToS3 hk, hcentred k hk, hcentred _ (Nat.sub_one_lt_of_lt hk), ← hk', ← Int.sub_emod]

/-! ### Trits mod Q -/

theorem inT3_iff {n : ℕ} {a : Poly} : inT3 n a = true ↔ ∀ k < n, 0 ≤ coeff a k ∧ coeff a k ≤ 2 := by
  simp [inT3]

theorem signedTrit_bounds {x : ℤ} (hx : 0 ≤ x ∧ x ≤ 2) : -1 ≤ signedTrit x ∧ signedTrit x ≤ 1 := by
  unfold signedTrit
  split <;> omega

theorem signedTrit_emod_three (x : ℤ) : signedTrit x % 3 = x % 3 := by
  unfold signedTrit
  split
  · next h => rw [h]; rfl
  · rfl

/-- Mod Q the residue of a trit is the signed trit. -/
theorem tritQ_emod (p : Params) (x : ℤ) : tritQ p x % p.q = signedTrit x % p.q := by
  unfold tritQ signedTrit
  split
  · rw [sub_eq_neg_add, Int.add_emod_right]
  · rfl

theorem z3ToZq_getD {p : Params} {x : ℤ} (hx : 0 ≤ x ∧ x ≤ 2) : (z3ToZq p x).getD 0 = tritQ p x := by
  obtain rfl | rfl | rfl : x = 0 ∨ x = 1 ∨ x = 2 := by omega
  all_goals rfl

theorem coeff_z3ToZqPoly {p : Params} {a : Poly} {k : ℕ} (hk : k < p.n) (ha : 0 ≤ coeff a k ∧ coeff a k ≤ 2) :
    coeff (z3ToZqPoly p a) k = tritQ p (coeff a k) := by
  rw [z3ToZqPoly, coeff_ofCoeffs _ hk, z3ToZq_getD ha]

/-! ### The product with x − 1 and the quotient by it (R156) -/

/-- The cyclic convolution as a single sum: for each i only the pair (i, (k − i) mod N) counts (R13). -/
theorem cyc_eq_sum {n k : ℕ} (hk : k < n) (x y : ℕ → ℤ) :
    cyc n x y k = ∑ i ∈ Finset.range n, x i * y ((k + n - i) % n) := by
  refine Finset.sum_congr rfl fun i hi => ?_
  have hpair : (k + n - i) % n < n := Nat.mod_lt _ (Nat.zero_lt_of_lt hk)
  rw [Finset.sum_eq_single_of_mem _ (Finset.mem_range.2 hpair) fun j hj hne => if_neg fun h =>
      hne ((add_mod_eq_iff (Finset.mem_range.1 hi) (Finset.mem_range.1 hj) hk).1 h).symm,
    if_pos ((add_mod_eq_iff (Finset.mem_range.1 hi) hpair hk).2 rfl)]

/-- The product with x − 1 (R156). -/
theorem cyc_xMinusOne {n k : ℕ} (hn : 1 < n) (hk : k < n) (y : ℕ → ℤ) :
    cyc n xMinusOne y k = y ((k + n - 1) % n) - y k := by
  rw [cyc_eq_sum hk, Finset.sum_eq_add_of_mem 0 1 (Finset.mem_range.2 (by omega)) (Finset.mem_range.2 hn) (by decide)
    fun i _ hi => by simp [xMinusOne, hi]]
  simp [xMinusOne, Nat.mod_eq_of_lt hk, neg_add_eq_sub]

/-- Σ_{j < k} (m[j] − m[N−1]), the partial sums of the normal representative of m. -/
def partialSum (n : ℕ) (m : Poly) (k : ℕ) : ℤ := ∑ j ∈ Finset.range k, normal n .sPhi (coeff m) j

@[simp] theorem partialSum_zero (n : ℕ) (m : Poly) : partialSum n m 0 = 0 := rfl

theorem partialSum_succ (n : ℕ) (m : Poly) (k : ℕ) :
    partialSum n m (k + 1) = partialSum n m k + (coeff m k - coeff m (n - 1)) := Finset.sum_range_succ _ _

/-- The quotient in T3 with last coefficient 0 is the canonical one. -/
theorem isCanonical_quotXm1 {n : ℕ} (hn : 0 < n) (m : Poly) : IsCanonical n 3 .sPhi (coeff (quotXm1 n m)) := by
  refine ⟨fun k hk => ?_, fun _ => ?_⟩
  · rw [quotXm1, coeff_ofCoeffs _ hk]
    split <;> omega
  · rw [quotXm1, coeff_ofCoeffs _ (Nat.sub_one_lt_of_lt hn), if_pos rfl]

theorem quotXm1_bounds {n k : ℕ} (m : Poly) (hk : k < n) : 0 ≤ coeff (quotXm1 n m) k ∧ coeff (quotXm1 n m) k ≤ 2 :=
  ((isCanonical_quotXm1 (Nat.zero_lt_of_lt hk) m).1 k hk).imp_right Int.le_of_lt_add_one

theorem intCast_emod_three (x : ℤ) : ((x % 3 : ℤ) : ZMod 3) = x := ZMod.intCast_mod x 3

theorem mul_self_zmod_three : ∀ c : ZMod 3, c ≠ 0 → c * c = 1 := by decide

/-- Mod 3 the quotient is B[k] = (k + 1)·N·S − S(k + 1), S the sum of all; at N − 1 that is 0 as well. -/
theorem quotXm1_eq {n k : ℕ} (hn : 1 < n) (hn3 : n % 3 ≠ 0) (hk : k < n) (m : Poly) :
    (coeff (quotXm1 n m) k : ZMod 3) =
      (k + 1) * (n * (partialSum n m n : ZMod 3)) - (partialSum n m (k + 1) : ZMod 3) := by
  have hsum (j : ℕ) : (sumTo (j + 1) fun i => coeff m i - coeff m (n - 1)) = partialSum n m (j + 1) := sumTo_eq_sum _ _
  have htotal : partialSum n m n = partialSum n m (n - 2 + 1) := by
    obtain ⟨l, rfl⟩ : ∃ l, n = l + 2 := ⟨n - 2, by omega⟩
    rw [partialSum_succ]
    simp
  have hunit : (n : ZMod 3) * n = 1 := mul_self_zmod_three _ fun h =>
    hn3 (Nat.mod_eq_zero_of_dvd ((ZMod.natCast_eq_zero_iff n 3).1 h))
  rw [quotXm1, coeff_ofCoeffs _ hk]
  simp only [hsum, ← htotal]
  split
  · next hlast =>
    obtain rfl : n = k + 1 := by omega
    push_cast at hunit ⊢
    linear_combination (-(partialSum (k + 1) m (k + 1) : ZMod 3)) * hunit
  · rw [intCast_emod_three]
    push_cast [intCast_emod_three]
    ring

/-- Mod 3 the coefficients of (x − 1)·B differ from those of m by a constant, which reduction mod Φ_N removes. -/
theorem sub_quotXm1_eq {n k : ℕ} (hn : 1 < n) (hn3 : n % 3 ≠ 0) (hk : k < n) (m : Poly) :
    (coeff (quotXm1 n m) ((k + n - 1) % n) - coeff (quotXm1 n m) k : ZMod 3) =
      coeff m k - coeff m (n - 1) - n * (partialSum n m n : ZMod 3) := by
  rw [quotXm1_eq hn hn3 hk, partialSum_succ]
  cases k with
  | zero =>
    have hlast : coeff (quotXm1 n m) (n - 1) = 0 := (isCanonical_quotXm1 (Nat.zero_lt_of_lt hn) m).2 rfl
    rw [Nat.zero_add, Nat.mod_eq_of_lt (by omega), hlast, partialSum_zero]
    push_cast
    ring
  | succ j =>
    have hprev : (j + 1 + n - 1) % n = j := by
      rw [show j + 1 + n - 1 = j + n by omega, Nat.add_mod_right, Nat.mod_eq_of_lt (by omega)]
    rw [hprev, quotXm1_eq hn hn3 (by omega)]
    push_cast
    ring

/-- R156: (x − 1) times the quotient is m mod (3, Φ_N). -/
theorem ringEq_xMinusOne_mul_quotXm1 {n : ℕ} (hn : 1 < n) (hn3 : n % 3 ≠ 0) (m : Poly) :
    RingEq n 3 .sPhi (cyc n xMinusOne (coeff (quotXm1 n m))) (coeff m) := by
  intro k hk
  have hlast := Nat.sub_one_lt_of_lt hk
  rw [cyc_xMinusOne hn hk, cyc_xMinusOne hn hlast]
  refine (ZMod.intCast_eq_intCast_iff _ _ 3).1 ?_
  push_cast
  rw [sub_quotXm1_eq hn hn3 hk, sub_quotXm1_eq hn hn3 hlast]
  ring

/-! ### The lifts (R156) -/

theorem liftFn_of_not_inT3 {p : Params} {m : Poly} (hm : ¬ inT3 p.n m = true) : liftFn p m = none := if_neg hm

/-- The FW lift is Z3TOZQ. -/
theorem coeff_liftFn_fw {p : Params} (hfw : p.family = .fw) {m l : Poly} (hm : inT3 p.n m = true) (hl : liftFn p m = some l)
    {k : ℕ} (hk : k < p.n) : coeff l k = tritQ p (coeff m k) := by
  rw [liftFn, if_pos hm, hfw] at hl
  obtain rfl := Option.some.inj hl
  exact coeff_z3ToZqPoly hk (inT3_iff.1 hm k hk)

/-- The BI lift is (x − 1) times Z3TOZQ of the quotient by x − 1. -/
theorem coeff_liftFn_bi {p : Params} (hp : p.wf = true) (hbi : p.family = .bi) {m l : Poly} (hm : inT3 p.n m = true)
    (hl : liftFn p m = some l) {k : ℕ} (hk : k < p.n) :
    coeff l k =
      (tritQ p (coeff (quotXm1 p.n m) ((k + p.n - 1) % p.n)) - tritQ p (coeff (quotXm1 p.n m) k)) % p.q := by
  have hn : 0 < p.n := Nat.zero_lt_of_lt hk
  have hquot {j : ℕ} (hj : j < p.n) := coeff_z3ToZqPoly (p := p) hj (quotXm1_bounds m hj)
  rw [liftFn, if_pos hm, hbi] at hl
  obtain rfl := Option.some.inj ((if_neg (n_mod_three_of_bi hp hbi)).symm.trans hl)
  rw [timesXm1, coeff_ofCoeffs _ hk, hquot (Nat.mod_lt _ hn), hquot hk]

theorem writes_congr {s t : State} {d : SlotIx} {w w' : ℕ → Word} (h : Writes s t d w)
    (hw : ∀ k < s.params.n, w k = w' k) : Writes s t d w' := fun k hk => hw k hk ▸ h k hk

/-- Where the lift has a value LIFT leaves its words. -/
theorem completeSlotDrawn_answer {s : State} {d : SlotIx} (hd : d.toNat < 8) {l : Poly} (hl : l.length = s.params.n) :
    ∃ t, completeSlotDrawn s d (wordsOrUnspec s.params.n ((some l).map toWords)) .ok = .next t ∧ Completed t .ok ∧
      Writes s t d fun k => wordOf (coeff l k) :=
  completeSlotDrawn_writes hd (fun k hk => by simp [toWords_getElem? (hl ▸ hk)]) .ok

/-- Where the lift has no value LIFT leaves free values only (R150). -/
theorem completeSlotDrawn_noAnswer {s : State} {d : SlotIx} (hd : d.toNat < 8) :
    ∃ t, completeSlotDrawn s d (wordsOrUnspec s.params.n ((none : Option Poly).map toWords)) .ok = .next t ∧
      Completed t .ok ∧ WritesFree s t d :=
  completeSlotDrawn_writes hd (fun k hk => by simp [hk]) .ok

theorem inT3_polyA_iff {f : Flight} {n : ℕ} : inT3 n (f.polyA n) = true ↔ ∀ k < n, wordN f.inA k ≤ 2 := by
  rw [inT3_iff]
  refine forall₂_congr fun k hk => ?_
  rw [coeff_polyA f hk]
  omega

/-! ### The round trip (R157) -/

/-- The integer representative of a lift: the signed trits of m, or (x − 1) times those of B (R157). -/
def signedLift (p : Params) (m : Poly) (k : ℕ) : ℤ :=
  match p.family with
  | .fw => signedTrit (coeff m k)
  | .bi => signedTrit (coeff (quotXm1 p.n m) ((k + p.n - 1) % p.n)) - signedTrit (coeff (quotXm1 p.n m) k)

theorem coeff_liftFn_emod {p : Params} (hp : p.wf = true) {m l : Poly} (hm : inT3 p.n m = true) (hl : liftFn p m = some l)
    {k : ℕ} (hk : k < p.n) : coeff l k % p.q = signedLift p m k % p.q := by
  unfold signedLift
  cases hfam : p.family with
  | fw => rw [coeff_liftFn_fw hfam hm hl hk, tritQ_emod]
  | bi => rw [coeff_liftFn_bi hp hfam hm hl hk, Int.emod_emod, Int.sub_emod, tritQ_emod, tritQ_emod, ← Int.sub_emod]

/-- Every coefficient of the representative is in {−2, …, 2} (R157). -/
theorem signedLift_bounds {p : Params} {m : Poly} (hm : inT3 p.n m = true) {k : ℕ} (hk : k < p.n) :
    -2 ≤ signedLift p m k ∧ signedLift p m k ≤ 2 := by
  have hn : 0 < p.n := Nat.zero_lt_of_lt hk
  unfold signedLift
  cases p.family with
  | fw =>
    have hself := signedTrit_bounds (inT3_iff.1 hm k hk)
    dsimp only
    omega
  | bi =>
    have hprev := signedTrit_bounds (quotXm1_bounds m (Nat.mod_lt (k + p.n - 1) hn))
    have hself := signedTrit_bounds (quotXm1_bounds m hk)
    dsimp only
    omega

/-- The representative is m mod (3, Φ_N) (R157). -/
theorem ringEq_signedLift {p : Params} (hp : p.wf = true) (m : Poly) : RingEq p.n 3 .sPhi (signedLift p m) (coeff m) := by
  have hn := one_lt_n hp
  intro k hk
  have hlast := Nat.sub_one_lt_of_lt hk
  unfold signedLift
  cases hfam : p.family with
  | fw => exact Int.ModEq.sub (signedTrit_emod_three _) (signedTrit_emod_three _)
  | bi =>
    have hcyc : ∀ j < p.n, signedTrit (coeff (quotXm1 p.n m) ((j + p.n - 1) % p.n)) - signedTrit (coeff (quotXm1 p.n m) j) ≡
        cyc p.n xMinusOne (coeff (quotXm1 p.n m)) j [ZMOD 3] := fun j hj => by
      rw [cyc_xMinusOne hn hj]
      exact Int.ModEq.sub (signedTrit_emod_three _) (signedTrit_emod_three _)
    exact ((hcyc k hk).sub (hcyc _ hlast)).trans (ringEq_xMinusOne_mul_quotXm1 hn (n_mod_three_of_bi hp hfam) m k hk)

end Sys2Proof.Machine

namespace Sys2Proof.Proofs

open Sys2Proof Sys2Proof.Machine Sys2Proof.Claims

/-- Settles O15: each of the three conversions is a table of three values, with free values beside it. -/
theorem tritConversionsPerCoefficient : Obligations.TritConversionsPerCoefficient := by
  intro s f d a hp hf hd
  have hq : (s.params.q : ℤ) - 1 = (s.params.q - 1 : ℕ) := (Nat.cast_pred (q_pos _)).symm
  refine ⟨completes_conversion hd (whileInFlight_of hf _) fun k => ?_,
    completes_conversion hd (whileInFlight_of hf _) fun k => ?_, completes_conversion hd (whileInFlight_of hf _) fun k => ?_⟩
  · rw [z3ToZq_eq_tritTable, hq, ← wordOf_natCast]
    exact getD_tritTable 2 _ _ _
  · rw [zqToZ3_eq_tritTable, hq]
    exact getD_tritTable _ 2 _ _
  · rw [zqToS_eq_tritTable, hq]
    exact getD_tritTable _ (-1) _ _

/-- Settles O16: the window of the model is the one of R154, and the last residue is subtracted. -/
theorem rqtos3WritesCentredResidues : Obligations.Rqtos3WritesCentredResidues := by
  intro s f d a hf hd u hp
  have hexec : exec (.rqtos3 d a) s = completeSlot s d (toWords (rqToS3 s.params (f.polyA s.params.n))) :=
    whileInFlight_of hf _
  have hu {k : ℕ} (hk : k < s.params.n) : centred s.params (coeff (f.polyA s.params.n) k) % 3 = u k := by
    rw [centred_eq hp, coeff_polyA f hk]
  rw [hexec]
  refine completeSlot_writes hd fun k hk => ?_
  rw [toWords_getElem? (by simpa using hk), coeff_rqToS3 hk, hu hk, hu (Nat.sub_one_lt_of_lt hk), wordOf]

/-- Settles O17: the lift of the family is answered exactly for a message in T3, and the B of the BI lift is `quotXm1`. -/
theorem liftWritesFamilyLift : Obligations.LiftWritesFamilyLift := by
  intro s f d a hp hf hd
  have hn := one_lt_n hp
  have hexec : exec (.lift d a) s = completeSlotDrawn s d (wordsOrUnspec s.params.n
      ((liftFn s.params (f.polyA s.params.n)).map toWords)) .ok := whileInFlight_of hf _
  rw [hexec]
  by_cases hT : inT3 s.params.n (f.polyA s.params.n) = true
  · have hdom := inT3_polyA_iff.1 hT
    have hout : ¬ ∃ k < s.params.n, 2 < wordN f.inA k := fun ⟨k, hk, hlt⟩ => absurd (hdom k hk) (by omega)
    obtain ⟨l, hl⟩ := liftFn_isSome hp hT
    obtain ⟨t, ht, hdone, hwrites⟩ := completeSlotDrawn_answer hd (length_of_liftFn hl)
    rw [hl]
    refine ⟨t, ht, hdone, fun h => absurd h hout, fun _ hfw => ?_, fun _ hbi => ?_⟩
    · refine writes_congr hwrites fun k hk => ?_
      rw [coeff_liftFn_fw hfw hT hl hk, coeff_polyA f hk, wordOf]
    · refine ⟨coeff (quotXm1 s.params.n (f.polyA s.params.n)), fun k hk => quotXm1_bounds _ hk,
        (isCanonical_quotXm1 (Nat.zero_lt_of_lt hn) _).2 rfl, fun k hk => ?_, writes_congr hwrites fun k hk => ?_⟩
      · have hring := ringEq_xMinusOne_mul_quotXm1 hn (n_mod_three_of_bi hp hbi) (f.polyA s.params.n) k hk
        rwa [coeff_polyA f hk, coeff_polyA f (Nat.sub_one_lt_of_lt hk)] at hring
      · rw [coeff_liftFn_bi hp hbi hT hl hk, wordOf]
  · have hdom := mt inT3_polyA_iff.2 hT
    obtain ⟨t, ht, hdone, hfree⟩ := completeSlotDrawn_noAnswer (s := s) hd
    rw [liftFn_of_not_inT3 hT]
    exact ⟨t, ht, hdone, fun _ => hfree, fun h => absurd h hdom, fun h => absurd h hdom⟩

/-- Settles O18: the representative of the lift lies inside the window, as Q is at least 8, and is m mod (3, Φ_N). -/
theorem liftThenReduceRecoversMessage : Obligations.LiftThenReduceRecoversMessage := by
  intro p m hp hlog hm
  have hq : 8 ≤ p.q := Nat.pow_le_pow_right (n := 2) two_pos hlog
  obtain ⟨l, hl⟩ := liftFn_isSome hp hm
  refine ⟨l, hl, rqToS3_eq_phi hp (fun k => coeff_liftFn_emod hp hm hl) (fun k hk => ?_) (ringEq_signedLift hp m)⟩
  have hsmall := signedLift_bounds hm hk
  omega

end Sys2Proof.Proofs
end

section
/-! SUPPORT. The mod-Q wire format of 42_packing.md: numbers from their bits, most significant first, the stream of R170 bit
by bit, what PACKQ and UNPACKQ make of it, and what a command that writes one region leaves there. -/

namespace Sys2Proof.Machine

open Sys2Proof.Claims

/-! ### What a completion leaves in its region of BUF -/

/-- A completion that stores one region leaves each known byte there, and the free value of its position elsewhere. -/
theorem storeBytes_writes {s : State} {off : Bus} {bs : List (Option Byte)} {y : ℕ → Byte}
    (hfit : off.toNat + bs.length ≤ s.params.bufBytes)
    (hy : ∀ b < bs.length, (bs[b]?).map (fun x => x.getD (Config.freeByte (s.draws + b))) = some (y b)) :
    ∃ t, (storeBytes s off bs fun t => .next (t.retire .ok)) = .next t ∧ Completed t .ok ∧
      ∀ b < bs.length, t.byteAt (off.toNat + b) = some (y b) := by
  refine ⟨_, if_pos hfit, ⟨rfl, rfl, rfl⟩, fun b hb => ?_⟩
  rw [State.byteAt_congr (State.retire_buf _ _), State.byteAt_writeBufDrawn, if_pos (by omega), Nat.add_sub_cancel_left,
    hy b hb]

/-- A completion whose bytes are all known draws none of them. -/
theorem storeBytes_writes_known {s : State} {off : Bus} {bs : List Byte}
    (hfit : off.toNat + bs.length ≤ s.params.bufBytes) :
    ∃ t, (storeBytes s off (bs.map some) fun t => .next (t.retire .ok)) = .next t ∧ Completed t .ok ∧
      ∀ b < bs.length, t.byteAt (off.toNat + b) = some (bs.getD b 0) := by
  simpa using storeBytes_writes (s := s) (off := off) (bs := bs.map some) (y := fun b => bs.getD b 0) (by simpa using hfit)
    fun b hb => by
      rw [List.length_map] at hb
      simp [hb]

/-! ### Numbers from their bits -/

/-- The number of `w` bits, most significant first. -/
def ofBitsMsb (w : ℕ) (b : ℕ → Bool) : ℕ := ∑ t ∈ Finset.range w, (b t).toNat * 2 ^ (w - 1 - t)

/-- One more bit is the new least significant one. -/
theorem ofBitsMsb_succ (w : ℕ) (b : ℕ → Bool) : ofBitsMsb (w + 1) b = Nat.bit (b w) (ofBitsMsb w b) := by
  have hshift : ∀ t ∈ Finset.range w, (b t).toNat * 2 ^ (w + 1 - 1 - t) = 2 * ((b t).toNat * 2 ^ (w - 1 - t)) :=
    fun t ht => by
      have hexp : w + 1 - 1 - t = w - 1 - t + 1 := by have := Finset.mem_range.1 ht; omega
      rw [hexp, pow_succ]
      ring
  rw [ofBitsMsb, Finset.sum_range_succ, Finset.sum_congr rfl hshift, ← Finset.mul_sum, Nat.bit_val, ofBitsMsb]
  simp

theorem ofBitsMsb_lt (w : ℕ) (b : ℕ → Bool) : ofBitsMsb w b < 2 ^ w := by
  induction w with
  | zero => exact Nat.one_pos
  | succ w ih => rwa [ofBitsMsb_succ, Nat.bit_lt_two_pow_succ_iff]

theorem testBit_ofBitsMsb {w j : ℕ} (hj : j < w) (b : ℕ → Bool) : (ofBitsMsb w b).testBit (w - 1 - j) = b j := by
  induction w with
  | zero => exact absurd hj (Nat.not_lt_zero j)
  | succ w ih =>
    rw [ofBitsMsb_succ]
    obtain rfl | hlt := Nat.eq_or_lt_of_le (Nat.le_of_lt_succ hj)
    · rw [Nat.add_sub_cancel, Nat.sub_self, Nat.testBit_bit_zero]
    · rw [show w + 1 - 1 - j = w - 1 - j + 1 by omega, Nat.testBit_bit_succ, ih hlt]

/-- A number is given by its bits. -/
theorem ofBitsMsb_eq {w x : ℕ} {b : ℕ → Bool} (hx : x < 2 ^ w) (h : ∀ j < w, x.testBit (w - 1 - j) = b j) :
    ofBitsMsb w b = x := by
  refine Nat.eq_of_testBit_eq fun i => ?_
  by_cases hi : i < w
  · have hrev : w - 1 - (w - 1 - i) = i := by omega
    have hj : w - 1 - i < w := by omega
    have hbit := (testBit_ofBitsMsb hj b).trans (h _ hj).symm
    rwa [hrev] at hbit
  · have hpow : 2 ^ w ≤ 2 ^ i := Nat.pow_le_pow_right two_pos (Nat.le_of_not_lt hi)
    rw [Nat.testBit_lt_two_pow ((ofBitsMsb_lt w b).trans_le hpow), Nat.testBit_lt_two_pow (hx.trans_le hpow)]

/-! ### The stream of R170 -/

theorem stream_le_packqBytes (p : Params) : p.logq * (p.n - 1) ≤ 8 * p.packqBytes := by
  unfold Params.packqBytes bytesFor
  omega

/-- The last byte ends in PAD_BITS padding bits (R9). -/
theorem lastByte_pos_lt_iff {p : Params} {b j : ℕ} (hb : b + 1 = p.packqBytes) (hj : j < 8) :
    8 * b + j < p.logq * (p.n - 1) ↔ p.padBits ≤ 8 - 1 - j := by
  have hfits := stream_le_packqBytes p
  unfold Params.padBits
  omega

/-- Every byte before the last lies in the stream. -/
theorem fullByte_pos_lt {p : Params} {b j : ℕ} (hb : b + 1 < p.packqBytes) (hj : j < 8) :
    8 * b + j < p.logq * (p.n - 1) := by
  unfold Params.packqBytes bytesFor at hb
  omega

theorem stream_pos_lt {p : Params} {i t : ℕ} (hi : i < p.n - 1) (ht : t < p.logq) :
    i * p.logq + t < p.logq * (p.n - 1) :=
  calc i * p.logq + t < i * p.logq + p.logq := Nat.add_lt_add_left ht _
    _ = p.logq * (i + 1) := by ring
    _ ≤ p.logq * (p.n - 1) := Nat.mul_le_mul_left _ hi

/-- Stream position `pos` as a bit: of a coefficient mod Q, or the padding 0 (R170). -/
def wireBit (p : Params) (c : Poly) (pos : ℕ) : Bool :=
  decide (pos < p.logq * (p.n - 1)) && (coeff c (pos / p.logq) % p.q).toNat.testBit (p.logq - 1 - pos % p.logq)

theorem streamBit_eq_wireBit (p : Params) (c : Poly) (pos : ℕ) : streamBit p c pos = (wireBit p c pos).toNat := by
  unfold streamBit wireBit
  split
  · rw [decide_eq_true ‹_›, Bool.true_and, Nat.toNat_testBit]
  · rw [decide_eq_false ‹_›, Bool.false_and, Bool.toNat_false]

theorem wireBit_of_padding {p : Params} {c : Poly} {pos : ℕ} (h : p.logq * (p.n - 1) ≤ pos) : wireBit p c pos = false := by
  rw [wireBit, decide_eq_false (Nat.not_lt.2 h), Bool.false_and]

/-- The bits of coefficient i lie at the LOGQ positions from i·LOGQ on. -/
theorem wireBit_coeff {p : Params} {i t : ℕ} (hi : i < p.n - 1) (ht : t < p.logq) (c : Poly) :
    wireBit p c (i * p.logq + t) = (coeff c i % p.q).toNat.testBit (p.logq - 1 - t) := by
  have hdiv : (i * p.logq + t) / p.logq = i := by
    rw [Nat.mul_comm, Nat.mul_add_div (Nat.zero_lt_of_lt ht), Nat.div_eq_of_lt ht, Nat.add_zero]
  have hmod : (i * p.logq + t) % p.logq = t := by rw [Nat.mul_add_mod', Nat.mod_eq_of_lt ht]
  rw [wireBit, decide_eq_true (stream_pos_lt hi ht), Bool.true_and, hdiv, hmod]

/-- A bit of a word below LOGQ is a bit of the word mod Q. -/
theorem wireBit_polyA {p : Params} {pos : ℕ} (h : pos < p.logq * (p.n - 1)) (f : Flight) :
    wireBit p (f.polyA p.n) pos = (wordN f.inA (pos / p.logq)).testBit (p.logq - 1 - pos % p.logq) := by
  have hcoeff : pos / p.logq < p.n := (Nat.div_lt_of_lt_mul h).trans_le (Nat.sub_le _ _)
  have hlogq : 0 < p.logq := Nat.pos_of_mul_pos_right (Nat.zero_lt_of_lt h)
  have hbit : p.logq - 1 - pos % p.logq < p.logq := by omega
  rw [wireBit, decide_eq_true h, Bool.true_and, coeff_polyA f hcoeff, ← Int.natCast_emod, Int.toNat_natCast, Params.q,
    Nat.testBit_mod_two_pow, decide_eq_true hbit, Bool.true_and]

/-- Every position of the stream is a bit of one of the coefficients 0 to N − 2. -/
theorem exists_coeff_of_pos {p : Params} {pos : ℕ} (h : pos < p.logq * (p.n - 1)) :
    ∃ i t, i < p.n - 1 ∧ t < p.logq ∧ pos = i * p.logq + t := by
  have hlogq : 0 < p.logq := Nat.pos_of_mul_pos_right (Nat.zero_lt_of_lt h)
  exact ⟨pos / p.logq, pos % p.logq, Nat.div_lt_of_lt_mul h, Nat.mod_lt _ hlogq, (Nat.div_add_mod' pos p.logq).symm⟩

/-- The bit at stream position `pos` of a byte string, `bit(by, pos)` of R172. -/
def byteBit (bs : List Byte) (pos : ℕ) : Bool := (byteN bs (pos / 8)).testBit (7 - pos % 8)

theorem bitOf_eq_byteBit (bs : List Byte) (pos : ℕ) : bitOf bs pos = (byteBit bs pos).toNat :=
  (Nat.toNat_testBit _ _).symm

theorem byteBit_byte {t : ℕ} (bs : List Byte) (b : ℕ) (ht : t < 8) : byteBit bs (8 * b + t) = (byteN bs b).testBit (7 - t) := by
  rw [byteBit, show (8 * b + t) / 8 = b by omega, show (8 * b + t) % 8 = t by omega]

theorem byteN_lt (bs : List Byte) (b : ℕ) : byteN bs b < 2 ^ 8 := BitVec.isLt _

/-! ### PACKQ and UNPACKQ by bit -/

/-- Byte b of the wire bytes is that of the stream positions 8·b to 8·b + 7 (R170). -/
theorem byteN_packqFn {p : Params} {b : ℕ} (hb : b < p.packqBytes) (c : Poly) :
    byteN (packqFn p c) b = ofBitsMsb 8 fun t => wireBit p c (8 * b + t) := by
  have hsum : ((List.range 8).map fun t => streamBit p c (8 * b + t) * 2 ^ (7 - t)).sum =
      ofBitsMsb 8 fun t => wireBit p c (8 * b + t) := by
    simp only [streamBit_eq_wireBit]
    rfl
  have hbyte : (packqFn p c).getD b 0 = BitVec.ofNat 8 (ofBitsMsb 8 fun t => wireBit p c (8 * b + t)) := by
    rw [← hsum]
    simp [packqFn, hb]
  rw [byteN, hbyte, BitVec.toNat_ofNat, Nat.mod_eq_of_lt (ofBitsMsb_lt 8 _)]

theorem byteBit_packqFn {p : Params} {pos : ℕ} (h : pos < 8 * p.packqBytes) (c : Poly) :
    byteBit (packqFn p c) pos = wireBit p c pos := by
  rw [byteBit, byteN_packqFn (by omega), testBit_ofBitsMsb (w := 8) (Nat.mod_lt _ (by decide)), Nat.div_add_mod]

theorem unpackCoeff_eq_ofBitsMsb (p : Params) (bs : List Byte) (i : ℕ) :
    unpackCoeff p bs i = (ofBitsMsb p.logq fun t => byteBit bs (i * p.logq + t) : ℕ) := by
  simp only [unpackCoeff, sumTo_eq_sum, ofBitsMsb, bitOf_eq_byteBit, Nat.cast_sum]

theorem coeff_unpackqFn {p : Params} {k : ℕ} (hk : k < p.n - 1) (last : LastCoeff) (bs : List Byte) :
    coeff (unpackqFn p last bs) k = unpackCoeff p bs k := by
  rw [unpackqFn.eq_def, coeff_ofCoeffs _ (by omega), if_neg (by omega)]

/-- CONV = 0 recomputes the last coefficient from the zero sum (R172). -/
theorem coeff_unpackqFn_sumZero {p : Params} (hn : 0 < p.n) (bs : List Byte) :
    coeff (unpackqFn p .sumZero bs) (p.n - 1) = -(∑ i ∈ Finset.range (p.n - 1), unpackCoeff p bs i) % p.q := by
  rw [unpackqFn, coeff_ofCoeffs _ (Nat.sub_one_lt_of_lt hn), if_pos rfl, ← sumTo_eq_sum]

theorem sum_unpackqFn_sumZero {p : Params} (hn : 0 < p.n) (bs : List Byte) :
    (∑ k ∈ Finset.range p.n, coeff (unpackqFn p .sumZero bs) k) % p.q = 0 := by
  have hread : ∀ i ∈ Finset.range (p.n - 1), coeff (unpackqFn p .sumZero bs) i = unpackCoeff p bs i :=
    fun i hi => coeff_unpackqFn (Finset.mem_range.1 hi) _ _
  rw [← Nat.sub_one_add_one hn.ne', Finset.sum_range_succ, Finset.sum_congr rfl hread,
    coeff_unpackqFn_sumZero hn, Int.add_emod_emod, add_neg_cancel, Int.zero_emod]

theorem coeff_unpackqFn_zero {p : Params} (hn : 0 < p.n) (bs : List Byte) :
    coeff (unpackqFn p .zero bs) (p.n - 1) = 0 := by
  rw [unpackqFn, coeff_ofCoeffs _ (Nat.sub_one_lt_of_lt hn), if_pos rfl]

theorem unpackCoeff_bounds (p : Params) (bs : List Byte) (i : ℕ) : 0 ≤ unpackCoeff p bs i ∧ unpackCoeff p bs i < p.q := by
  rw [unpackCoeff_eq_ofBitsMsb]
  exact ⟨Int.natCast_nonneg _, Int.ofNat_lt.2 (ofBitsMsb_lt _ _)⟩

/-- Every coefficient that UNPACKQ makes is in [0, Q), the last one as well. -/
theorem coeff_unpackqFn_bounds {p : Params} {k : ℕ} (hk : k < p.n) (last : LastCoeff) (bs : List Byte) :
    0 ≤ coeff (unpackqFn p last bs) k ∧ coeff (unpackqFn p last bs) k < p.q := by
  have hq : (0 : ℤ) < p.q := Int.ofNat_lt.2 (q_pos p)
  obtain rfl | hlt : k = p.n - 1 ∨ k < p.n - 1 := by omega
  · cases last with
    | sumZero =>
      rw [coeff_unpackqFn_sumZero (Nat.zero_lt_of_lt hk)]
      exact ⟨Int.emod_nonneg _ hq.ne', Int.emod_lt_of_pos _ hq⟩
    | zero =>
      rw [coeff_unpackqFn_zero (Nat.zero_lt_of_lt hk)]
      exact ⟨le_rfl, hq⟩
  · rw [coeff_unpackqFn hlt]
    exact unpackCoeff_bounds p bs k

/-- A coefficient that UNPACKQ makes, as a number: its word holds it, as LOGQ is at most 16. -/
theorem toNat_wordOf_coeff_unpackqFn {p : Params} (hp : p.wf = true) {k : ℕ} (hk : k < p.n) (last : LastCoeff)
    (bs : List Byte) : (wordOf (coeff (unpackqFn p last bs) k)).toNat = (coeff (unpackqFn p last bs) k).toNat := by
  obtain ⟨hnonneg, hlt⟩ := coeff_unpackqFn_bounds hk last bs
  obtain ⟨x, hx⟩ := Int.eq_ofNat_of_zero_le hnonneg
  have hlogq : p.logq ≤ 16 := by have := params_bounds hp; omega
  have hq : p.q ≤ 2 ^ 16 := Nat.pow_le_pow_right two_pos hlogq
  rw [hx] at hlt ⊢
  rw [wordOf_natCast, BitVec.toNat_ofNat, Int.toNat_natCast, Nat.mod_eq_of_lt (by omega)]

/-! ### The round trips of R173 -/

/-- UNPACKQ reads back from the wire bytes of c its coefficients mod Q. -/
theorem unpackCoeff_packqFn {p : Params} {i : ℕ} (hi : i < p.n - 1) (c : Poly) :
    unpackCoeff p (packqFn p c) i = coeff c i % p.q := by
  have hq : (0 : ℤ) < p.q := Int.ofNat_lt.2 (q_pos p)
  have hnonneg : 0 ≤ coeff c i % p.q := Int.emod_nonneg _ hq.ne'
  have hlt : (coeff c i % p.q).toNat < 2 ^ p.logq := (Int.toNat_lt hnonneg).2 (Int.emod_lt_of_pos _ hq)
  rw [unpackCoeff_eq_ofBitsMsb, ofBitsMsb_eq hlt fun j hj => ?_, Int.toNat_of_nonneg hnonneg]
  rw [byteBit_packqFn ((stream_pos_lt hi hj).trans_le (stream_le_packqBytes p)), wireBit_coeff hi hj]

/-- The last coefficient of a polynomial in [0, Q) whose sum is 0 mod Q is recomputed from the others. -/
theorem coeff_unpackqFn_packqFn_last {p : Params} (hn : 0 < p.n) {c : Poly}
    (hc : ∀ k < p.n, 0 ≤ coeff c k ∧ coeff c k < p.q) (hsum : (∑ k ∈ Finset.range p.n, coeff c k) % p.q = 0) :
    coeff (unpackqFn p .sumZero (packqFn p c)) (p.n - 1) = coeff c (p.n - 1) := by
  have hread : ∀ i ∈ Finset.range (p.n - 1), unpackCoeff p (packqFn p c) i = coeff c i := fun i hi => by
    have hi := Finset.mem_range.1 hi
    obtain ⟨hnonneg, hlt⟩ := hc i (by omega)
    rw [unpackCoeff_packqFn hi, Int.emod_eq_of_lt hnonneg hlt]
  obtain ⟨hnonneg, hlt⟩ := hc (p.n - 1) (Nat.sub_one_lt_of_lt hn)
  rw [← Nat.sub_one_add_one hn.ne', Finset.sum_range_succ] at hsum
  have hlast : -(∑ i ∈ Finset.range (p.n - 1), coeff c i) ≡ coeff c (p.n - 1) [ZMOD p.q] := by
    rw [Int.modEq_iff_dvd, sub_neg_eq_add, add_comm]
    exact Int.dvd_of_emod_eq_zero hsum
  rw [coeff_unpackqFn_sumZero hn, Finset.sum_congr rfl hread, hlast.eq, Int.emod_eq_of_lt hnonneg hlt]

/-- The stream of what UNPACKQ made of a byte string has the bits of the string, and 0 in the padding. -/
theorem wireBit_unpackqFn (p : Params) (last : LastCoeff) (bs : List Byte) (pos : ℕ) :
    wireBit p (unpackqFn p last bs) pos = (decide (pos < p.logq * (p.n - 1)) && byteBit bs pos) := by
  by_cases h : pos < p.logq * (p.n - 1)
  · obtain ⟨i, t, hi, ht, rfl⟩ := exists_coeff_of_pos h
    obtain ⟨hnonneg, hlt⟩ := unpackCoeff_bounds p bs i
    rw [wireBit_coeff hi ht, coeff_unpackqFn hi, Int.emod_eq_of_lt hnonneg hlt, unpackCoeff_eq_ofBitsMsb,
      Int.toNat_natCast, testBit_ofBitsMsb ht, decide_eq_true h, Bool.true_and]
  · rw [wireBit_of_padding (Nat.le_of_not_lt h), decide_eq_false h, Bool.false_and]

/-- Clearing the low `pad` bits of a number. -/
theorem testBit_div_mul_two_pow (x pad i : ℕ) : (x / 2 ^ pad * 2 ^ pad).testBit i = (decide (pad ≤ i) && x.testBit i) := by
  rw [Nat.testBit_mul_two_pow, Nat.testBit_div_two_pow]
  by_cases h : pad ≤ i
  · rw [Nat.sub_add_cancel h]
  · simp [h]

/-- PACKQ after UNPACKQ keeps the bits of a byte that lie in the stream. -/
theorem testBit_byteN_packqFn_unpackqFn {p : Params} {b j : ℕ} (hb : b < p.packqBytes) (hj : j < 8) (last : LastCoeff)
    (bs : List Byte) : (byteN (packqFn p (unpackqFn p last bs)) b).testBit (8 - 1 - j) =
      (decide (8 * b + j < p.logq * (p.n - 1)) && (byteN bs b).testBit (8 - 1 - j)) := by
  rw [byteN_packqFn hb, testBit_ofBitsMsb hj, wireBit_unpackqFn, byteBit_byte bs b hj]

/-- Two numbers below 2^8 with the same bits are the same. -/
theorem eq_of_testBit_byte {x y : ℕ} (hx : x < 2 ^ 8) (hy : y < 2 ^ 8)
    (h : ∀ j < 8, x.testBit (8 - 1 - j) = y.testBit (8 - 1 - j)) : x = y :=
  (ofBitsMsb_eq hx h).symm.trans (ofBitsMsb_eq hy fun _ _ => rfl)

end Sys2Proof.Machine

namespace Sys2Proof.Proofs

open Sys2Proof Sys2Proof.Machine Sys2Proof.Claims

/-- Settles O19: the bytes stored are those of `packqFn`, whose bits are the stream's. -/
theorem packqWritesStream : Obligations.PackqWritesStream := by
  intro s f a hf hfit
  have hexec : exec (.packq a) s = storeBytes s f.boff0 ((packqFn s.params (f.polyA s.params.n)).map some)
      fun t => .next (t.retire .ok) := whileInFlight_of hf _
  obtain ⟨t, ht, hdone, hbytes⟩ := storeBytes_writes_known (bs := packqFn s.params (f.polyA s.params.n)) (s := s)
    (off := f.boff0) (by rwa [length_packqFn])
  refine ⟨t, hexec.trans ht, hdone, fun b hb => ⟨_, hbytes b (by rwa [length_packqFn]), fun j hj => ?_⟩⟩
  calc (byteN (packqFn s.params (f.polyA s.params.n)) b).testBit (8 - 1 - j)
      = wireBit s.params (f.polyA s.params.n) (8 * b + j) := by rw [byteN_packqFn hb, testBit_ofBitsMsb hj]
    _ = _ := by
      split
      · exact wireBit_polyA ‹_› f
      · exact wireBit_of_padding (Nat.le_of_not_lt ‹_›)

/-- Settles O20: the words hold the coefficients of `unpackqFn`, which are below Q. -/
theorem unpackqReadsStream : Obligations.UnpackqReadsStream := by
  intro s f d last hp hf hd
  have hn : 0 < s.params.n := Nat.zero_lt_of_lt (one_lt_n hp)
  have hexec : exec (.unpackq d last) s = completeSlot s d (toWords (unpackqFn s.params last f.in0)) := whileInFlight_of hf _
  obtain ⟨t, ht, hdone, hwrites⟩ := completeSlot_writes (ws := toWords (unpackqFn s.params last f.in0))
    (w := fun k => wordOf (coeff (unpackqFn s.params last f.in0) k)) hd fun k hk => toWords_getElem? (by simpa using hk)
  have hvalue {k : ℕ} (hk : k < s.params.n) := toNat_wordOf_coeff_unpackqFn hp hk last f.in0
  refine ⟨t, _, hexec.trans ht, hdone, hwrites, fun k hk => ?_, fun k hk j hj => ?_, ?_, ?_⟩
  · obtain ⟨hnonneg, hlt⟩ := coeff_unpackqFn_bounds hk last f.in0
    rw [hvalue hk]
    exact (Int.toNat_lt hnonneg).2 hlt
  · rw [← BitVec.testBit_toNat, hvalue (Nat.lt_of_lt_pred hk), coeff_unpackqFn hk, unpackCoeff_eq_ofBitsMsb,
      Int.toNat_natCast, testBit_ofBitsMsb hj, byteBit]
  · rintro rfl
    have hsum := sum_unpackqFn_sumZero hn f.in0
    rw [Finset.sum_congr rfl fun k hk => (Int.toNat_of_nonneg (coeff_unpackqFn_bounds (Finset.mem_range.1 hk) _ _).1).symm]
      at hsum
    rw [Finset.sum_congr rfl fun k hk => hvalue (Finset.mem_range.1 hk)]
    exact_mod_cast hsum
  · rintro rfl
    exact congrArg wordOf (coeff_unpackqFn_zero hn f.in0)

/-- Settles O23: PACKQ and UNPACKQ are inverse bit by bit, and the recomputed last coefficient is the residue of the zero sum. -/
theorem packqRoundTrips : Obligations.PackqRoundTrips := by
  intro p hp
  have hn : 0 < p.n := Nat.zero_lt_of_lt (one_lt_n hp)
  have hread {c : Poly} (hc : ∀ k < p.n, 0 ≤ coeff c k ∧ coeff c k < p.q) (last : LastCoeff)
      (hlast : coeff (unpackqFn p last (packqFn p c)) (p.n - 1) = coeff c (p.n - 1)) :
      ∀ k < p.n, coeff (unpackqFn p last (packqFn p c)) k = coeff c k := fun k hk => by
    obtain rfl | hlt : k = p.n - 1 ∨ k < p.n - 1 := by omega
    · exact hlast
    · rw [coeff_unpackqFn hlt, unpackCoeff_packqFn hlt, Int.emod_eq_of_lt (hc k hk).1 (hc k hk).2]
  refine ⟨fun c hc hsum => hread hc .sumZero ?_, fun c hc hlast => hread hc .zero ?_, fun bs last hlen => ⟨?_, fun b hb => ?_⟩⟩
  · exact coeff_unpackqFn_packqFn_last hn hc hsum
  · rw [coeff_unpackqFn_zero hn, hlast]
  · exact length_packqFn _ _
  · split
    · next hlast =>
      refine eq_of_testBit_byte (byteN_lt _ _) ((Nat.div_mul_le_self _ _).trans_lt (byteN_lt _ _)) fun j hj => ?_
      rw [testBit_byteN_packqFn_unpackqFn hb hj, testBit_div_mul_two_pow,
        decide_eq_decide.2 (lastByte_pos_lt_iff hlast hj)]
    · next hbefore =>
      refine eq_of_testBit_byte (byteN_lt _ _) (byteN_lt _ _) fun j hj => ?_
      have hpos := fullByte_pos_lt (Nat.lt_of_le_of_ne hb hbefore) hj
      rw [testBit_byteN_packqFn_unpackqFn hb hj, decide_eq_true hpos, Bool.true_and]

end Sys2Proof.Proofs
end

section
/-! SUPPORT. The trit wire format of 42_packing.md: numbers from their base-3 digits, the bytes of PACK3 and the digits that
UNPACK3 reads from them. -/

namespace Sys2Proof.Machine

open Sys2Proof.Claims

/-! ### Numbers from five base-3 digits -/

/-- Five base-3 digits, least significant first, as a number (R174). -/
def ofTrits (d : ℕ → ℕ) : ℕ := ∑ j ∈ Finset.range 5, d j * 3 ^ j

theorem ofTrits_eq (d : ℕ → ℕ) : ofTrits d = d 0 + 3 * d 1 + 9 * d 2 + 27 * d 3 + 81 * d 4 := by
  simp only [ofTrits, Finset.sum_range_succ, Finset.sum_range_zero]
  ring

theorem forall_lt_five {P : ℕ → Prop} (h : ∀ j < 5, P j) : P 0 ∧ P 1 ∧ P 2 ∧ P 3 ∧ P 4 :=
  ⟨h 0 (by decide), h 1 (by decide), h 2 (by decide), h 3 (by decide), h 4 (by decide)⟩

theorem ofTrits_congr {d d' : ℕ → ℕ} (h : ∀ j < 5, d j = d' j) : ofTrits d = ofTrits d' :=
  Finset.sum_congr rfl fun j hj => by rw [h j (Finset.mem_range.1 hj)]

theorem ofTrits_lt {d : ℕ → ℕ} (h : ∀ j < 5, d j ≤ 2) : ofTrits d < 3 ^ 5 := by
  obtain ⟨h0, h1, h2, h3, h4⟩ := forall_lt_five h
  rw [ofTrits_eq]
  omega

/-- The digits of the number are the digits it was made from. -/
theorem digit_ofTrits {d : ℕ → ℕ} (h : ∀ j < 5, d j ≤ 2) {j : ℕ} (hj : j < 5) : ofTrits d / 3 ^ j % 3 = d j := by
  obtain ⟨h0, h1, h2, h3, h4⟩ := forall_lt_five h
  rw [ofTrits_eq]
  interval_cases j <;> omega

/-- A number below 3^5 is that of its digits. -/
theorem ofTrits_digits {y : ℕ} (hy : y < 3 ^ 5) : ofTrits (fun j => y / 3 ^ j % 3) = y := by
  rw [ofTrits_eq]
  omega

/-! ### The bytes of PACK3 (R174, R175) -/

theorem pack3Byte_of_digits {n i : ℕ} {t : List (Option ℤ)} {d : ℕ → ℕ}
    (h : ∀ j < 5, storedTrit n t (5 * i + j) = some (d j : ℤ)) :
    pack3Byte n t i = some (BitVec.ofNat 8 (ofTrits d)) := by
  obtain ⟨h0, h1, h2, h3, h4⟩ := forall_lt_five h
  rw [Nat.add_zero] at h0
  simp only [pack3Byte, h0, h1, h2, h3, h4]
  rw [← BitVec.ofInt_natCast, ofTrits_eq]
  push_cast
  rfl

theorem pack3Byte_of_unspec {n i j : ℕ} {t : List (Option ℤ)} (hj : j < 5) (h : storedTrit n t (5 * i + j) = none) :
    pack3Byte n t i = none := by
  unfold pack3Byte
  split
  · next h0 h1 h2 h3 h4 => interval_cases j <;> simp_all
  · rfl

theorem pack3Fn_getElem? {p : Params} {b : ℕ} (hb : b < p.pack3Bytes) (t : List (Option ℤ)) :
    (pack3Fn p t)[b]? = some (pack3Byte p.n t b) := by
  simp [pack3Fn, hb]

/-- The bytes of PACK3 are all known where they are one by one. -/
theorem pack3Fn_eq_map_some {p : Params} {t : List (Option ℤ)} {bs : List Byte} (hlen : bs.length = p.pack3Bytes)
    (h : ∀ b < p.pack3Bytes, pack3Byte p.n t b = some (bs.getD b 0)) : pack3Fn p t = bs.map some := by
  refine List.ext_getElem? fun b => ?_
  by_cases hb : b < p.pack3Bytes
  · have hb' : b < bs.length := hlen ▸ hb
    rw [pack3Fn_getElem? hb, h b hb, List.getElem?_map, List.getElem?_eq_getElem hb', List.getD_eq_getElem _ _ hb',
      Option.map_some]
  · rw [List.getElem?_eq_none (by simpa using hb), List.getElem?_eq_none (by simpa [hlen] using hb)]

/-- What R174 stores of the trits x: those up to index N − 2, and 0 above. -/
def stored (n : ℕ) (x : ℕ → ℕ) (k : ℕ) : ℕ := if k + 1 < n then x k else 0

theorem stored_of_lt {n k : ℕ} (h : k < n - 1) (x : ℕ → ℕ) : stored n x k = x k := if_pos (Nat.add_lt_of_lt_sub h)

theorem stored_le_two {n : ℕ} {x : ℕ → ℕ} (h : ∀ k < n, x k ≤ 2) (k : ℕ) : stored n x k ≤ 2 := by
  unfold stored
  split
  · exact h k (by omega)
  · exact Nat.zero_le 2

/-- The words of a snapshot are stored as trits, UNSPEC outside T3 (R175). -/
theorem storedTrit_convertEach (f : Flight) (n k : ℕ) :
    storedTrit n (convertEach n tritOf (f.polyA n)) k =
      if stored n (wordN f.inA) k ≤ 2 then some (stored n (wordN f.inA) k : ℤ) else none := by
  by_cases h : k < n - 1
  · have hget : (convertEach n tritOf (f.polyA n)).getD k (some 0) = tritOf (coeff (f.polyA n) k) := by
      simp [convertEach, show k < n by omega]
    have htrit : (0 ≤ (wordN f.inA k : ℤ) ∧ (wordN f.inA k : ℤ) ≤ 2) ↔ wordN f.inA k ≤ 2 := by omega
    rw [storedTrit, if_pos h, hget, coeff_polyA f (by omega), tritOf, stored_of_lt h, if_congr htrit rfl rfl]
  · have hzero : stored n (wordN f.inA) k = 0 := if_neg (by omega)
    rw [storedTrit, if_neg h, hzero]
    rfl

/-- The trits of a polynomial in T3 are stored as they are. -/
theorem storedTrit_map_some {n : ℕ} {c : Poly} (hc : inT3 n c = true) (k : ℕ) :
    storedTrit n (c.map some) k = some (stored n (fun i => (coeff c i).toNat) k : ℤ) := by
  by_cases h : k < n - 1
  · have hget : (c.map some).getD k (some 0) = some (coeff c k) := List.getD_map c 0 some
    rw [storedTrit, if_pos h, hget, stored_of_lt h, Int.toNat_of_nonneg (coeff_nonneg_of_inT3 hc k (by omega))]
  · have hzero : stored n (fun i => (coeff c i).toNat) k = 0 := if_neg (by omega)
    rw [storedTrit, if_neg h, hzero]
    rfl

/-! ### The digits that UNPACK3 reads (R176) -/

theorem coeff_unpack3Fn {p : Params} {k : ℕ} (hk : k < p.n - 1) (bs : List Byte) :
    coeff (unpack3Fn p bs) k = (byteN bs (k / 5) / 3 ^ (k % 5) % 3 : ℕ) := by
  rw [unpack3Fn, coeff_ofCoeffs _ (by omega), if_neg (by omega), byteN]

theorem coeff_unpack3Fn_last {p : Params} (hn : 0 < p.n) (bs : List Byte) : coeff (unpack3Fn p bs) (p.n - 1) = 0 := by
  rw [unpack3Fn, coeff_ofCoeffs _ (Nat.sub_one_lt_of_lt hn), if_pos rfl]

theorem inT3_unpack3Fn (p : Params) (bs : List Byte) : inT3 p.n (unpack3Fn p bs) = true := by
  refine inT3_iff.2 fun k hk => ?_
  obtain rfl | hlt : k = p.n - 1 ∨ k < p.n - 1 := by omega
  · rw [coeff_unpack3Fn_last (Nat.zero_lt_of_lt hk)]
    decide
  · rw [coeff_unpack3Fn hlt]
    omega

/-! ### The round trips of R177 -/

/-- The trit wire bytes of a polynomial in T3. -/
def tritBytes (p : Params) (c : Poly) : List Byte :=
  (List.range p.pack3Bytes).map fun b => BitVec.ofNat 8 (ofTrits fun j => stored p.n (fun k => (coeff c k).toNat) (5 * b + j))

theorem getD_tritBytes {p : Params} {b : ℕ} (hb : b < p.pack3Bytes) (c : Poly) : (tritBytes p c).getD b 0 =
    BitVec.ofNat 8 (ofTrits fun j => stored p.n (fun k => (coeff c k).toNat) (5 * b + j)) := by
  simp [tritBytes, hb]

/-- PACK3 of a polynomial in T3 has no UNSPEC byte. -/
theorem pack3Fn_map_some {p : Params} {c : Poly} (hc : inT3 p.n c = true) :
    pack3Fn p (c.map some) = (tritBytes p c).map some :=
  pack3Fn_eq_map_some (by simp [tritBytes]) fun b hb => by
    rw [getD_tritBytes hb, pack3Byte_of_digits fun j _ => storedTrit_map_some hc (5 * b + j)]

theorem toNat_coeff_le_two {n : ℕ} {c : Poly} (hc : inT3 n c = true) : ∀ k < n, (coeff c k).toNat ≤ 2 := fun k hk => by
  have := (inT3_iff.1 hc k hk).2
  omega

/-- UNPACK3 reads back from the wire bytes of a polynomial in T3 its trits. -/
theorem coeff_unpack3Fn_tritBytes {p : Params} {c : Poly} (hc : inT3 p.n c = true) {k : ℕ} (hk : k < p.n - 1) :
    coeff (unpack3Fn p (tritBytes p c)) k = coeff c k := by
  have hb : k / 5 < p.pack3Bytes := by unfold Params.pack3Bytes; omega
  have hdigit : ∀ j < 5, stored p.n (fun i => (coeff c i).toNat) (5 * (k / 5) + j) ≤ 2 :=
    fun j _ => stored_le_two (toNat_coeff_le_two hc) _
  have hbyte : ofTrits (fun j => stored p.n (fun i => (coeff c i).toNat) (5 * (k / 5) + j)) < 2 ^ 8 :=
    (ofTrits_lt hdigit).trans (by decide)
  rw [coeff_unpack3Fn hk, byteN, getD_tritBytes hb, BitVec.toNat_ofNat, Nat.mod_eq_of_lt hbyte,
    digit_ofTrits hdigit (Nat.mod_lt k (by decide)), Nat.div_add_mod, stored_of_lt hk,
    Int.toNat_of_nonneg (coeff_nonneg_of_inT3 hc k (by omega))]

/-- What PACK3 stores of the digits of a byte whose digits above the used positions are 0: all five digits. -/
theorem stored_unpack3Fn {p : Params} {bs : List Byte} {b j : ℕ} (hj : j < 5)
    (hunused : p.n - 1 ≤ 5 * b + j → byteN bs b < 3 ^ j) :
    stored p.n (fun k => (coeff (unpack3Fn p bs) k).toNat) (5 * b + j) = byteN bs b / 3 ^ j % 3 := by
  by_cases h : 5 * b + j < p.n - 1
  · have hdiv : (5 * b + j) / 5 = b := by omega
    have hmod : (5 * b + j) % 5 = j := by omega
    rw [stored_of_lt h, coeff_unpack3Fn h, hdiv, hmod, Int.toNat_natCast]
  · rw [Nat.div_eq_of_lt (hunused (Nat.le_of_not_lt h)), Nat.zero_mod]
    exact if_neg (by omega)

/-- PACK3 makes again the byte whose digits UNPACK3 has read, where no digit lies above the used positions. -/
theorem pack3Byte_unpack3Fn {p : Params} {bs : List Byte} {b : ℕ} (hb : b < p.pack3Bytes) (hbyte : byteN bs b ≤ 242)
    (hlast : byteN bs (p.pack3Bytes - 1) < 3 ^ (p.n - 1 - 5 * (p.pack3Bytes - 1))) :
    pack3Byte p.n ((unpack3Fn p bs).map some) b = some (bs.getD b 0) := by
  have hunused {j : ℕ} (hj5 : j < 5) (hj : p.n - 1 ≤ 5 * b + j) : byteN bs b < 3 ^ j := by
    obtain rfl : b = p.pack3Bytes - 1 := by unfold Params.pack3Bytes at hb ⊢; omega
    exact hlast.trans_le (Nat.pow_le_pow_right three_pos (by omega))
  rw [pack3Byte_of_digits fun j _ => storedTrit_map_some (inT3_unpack3Fn p bs) (5 * b + j),
    ofTrits_congr fun j hj => stored_unpack3Fn hj (hunused hj), ofTrits_digits (Nat.lt_succ_of_le hbyte), byteN,
    BitVec.ofNat_toNat, BitVec.setWidth_eq]

end Sys2Proof.Machine

namespace Sys2Proof.Proofs

open Sys2Proof Sys2Proof.Machine Sys2Proof.Claims

/-- Settles O21: a byte is that of its five stored trits, and UNSPEC where one of them is. -/
theorem pack3WritesBase3 : Obligations.Pack3WritesBase3 := by
  intro s f a hf hfit tt
  have hexec : exec (.pack3 a) s = storeBytes s f.boff0
      (pack3Fn s.params (convertEach s.params.n tritOf (f.polyA s.params.n))) fun t => .next (t.retire .ok) :=
    whileInFlight_of hf _
  have htrit (k : ℕ) : storedTrit s.params.n (convertEach s.params.n tritOf (f.polyA s.params.n)) k =
      if tt k ≤ 2 then some (tt k : ℤ) else none := storedTrit_convertEach f s.params.n k
  rw [hexec, ← length_pack3Fn s.params (convertEach s.params.n tritOf (f.polyA s.params.n))]
  refine storeBytes_writes (by rwa [length_pack3Fn]) fun b hb => ?_
  rw [length_pack3Fn] at hb
  rw [pack3Fn_getElem? hb, Option.map_some]
  split
  · next hall =>
    rw [pack3Byte_of_digits fun j hj => (htrit _).trans (if_pos (hall j hj))]
    rfl
  · next hsome =>
    push Not at hsome
    obtain ⟨j, hj, hout⟩ := hsome
    rw [pack3Byte_of_unspec hj ((htrit _).trans (if_neg (Nat.not_le.2 hout)))]
    rfl

/-- Settles O22: the words hold the digits that `unpack3Fn` reads. -/
theorem unpack3ReadsBase3 : Obligations.Unpack3ReadsBase3 := by
  intro s f d hf hd
  have hexec : exec (.unpack3 d) s = completeSlot s d (toWords (unpack3Fn s.params f.in0)) := whileInFlight_of hf _
  rw [hexec]
  refine completeSlot_writes hd fun k hk => ?_
  rw [toWords_getElem? (by simpa using hk)]
  split
  · next hlast =>
    obtain rfl : k = s.params.n - 1 := by omega
    rw [coeff_unpack3Fn_last (Nat.zero_lt_of_lt hk)]
    rfl
  · next hbefore => rw [coeff_unpack3Fn (by omega), wordOf_natCast]

/-- Settles O24: the bytes of PACK3 are `tritBytes`, from which UNPACK3 reads the trits; and a byte is that of its digits. -/
theorem pack3RoundTrips : Obligations.Pack3RoundTrips := by
  intro p _
  refine ⟨fun c hc hzero => ⟨tritBytes p c, pack3Fn_map_some hc, fun k hk => ?_⟩, fun bs hlen hbytes hlast =>
    pack3Fn_eq_map_some hlen fun b hb => pack3Byte_unpack3Fn hb (hbytes b hb) hlast⟩
  obtain rfl | hlt : k = p.n - 1 ∨ k < p.n - 1 := by omega
  · rw [coeff_unpack3Fn_last (Nat.zero_lt_of_lt hk), hzero]
  · exact coeff_unpack3Fn_tritBytes hc hlt

end Sys2Proof.Proofs
end

section
/-! SUPPORT. What the three samplers share: the completion of R190, and samples whose last coefficient is 0. -/

namespace Sys2Proof.Machine

open Sys2Proof.Claims

/-! ### The completion of a sampler (R190) -/

/-- A sampler leaves its sample, or free values with SAMPLE_EXHAUSTED. -/
theorem completes_sample {i : Instr} {s : State} {d : SlotIx} {sample : Option Poly} (hd : d.toNat < 8)
    (hexec : exec i s = completeSample s d sample) (hlen : ∀ c, sample = some c → c.length = s.params.n) :
    ∃ t, exec i s = .next t ∧
      (∀ c, sample = some c → Completed t .ok ∧ Writes s t d fun k => wordOf (coeff c k)) ∧
      (sample = none → Completed t .sampleExhausted ∧ WritesFree s t d) := by
  rw [hexec]
  cases sample with
  | none =>
    obtain ⟨t, ht, hdone⟩ := completeSlotDrawn_writes (s := s) (ws := wordsOrUnspec s.params.n none)
      (w := fun k => Config.freeWord (s.draws + k)) hd (fun k hk => by simp [hk]) .sampleExhausted
    exact ⟨t, ht, nofun, fun _ => hdone⟩
  | some a =>
    obtain ⟨t, ht, hdone⟩ := completeSlotDrawn_answer hd (hlen a rfl)
    refine ⟨t, ht, fun c hc => ?_, nofun⟩
    cases hc
    exact hdone

/-! ### Polynomials whose last coefficient is 0 (R190(e)) -/

theorem coeff_append_zero (a : Poly) (k : ℕ) : coeff (a ++ [0]) k = coeff a k := by
  obtain hlt | hle := Nat.lt_or_ge k a.length
  · simp [coeff, List.getElem?_append_left hlt]
  · rw [coeff_of_length_le hle, coeff, List.getD_append_right _ _ _ _ hle]
    cases k - a.length <;> rfl

/-- N − 1 coefficients and a last one of 0, as the model writes it. -/
theorem ofCoeffs_lastZero {n : ℕ} {a : Poly} {x : ℕ → ℤ} (hlen : a.length + 1 = n) (hx : ∀ k < n - 1, x k = coeff a k) :
    (ofCoeffs n fun k => if k = n - 1 then 0 else x k) = a ++ [0] := by
  refine ((eq_ofCoeffs_iff (by simpa using hlen)).2 fun k hk => ?_).symm
  rw [coeff_append_zero]
  split
  · exact coeff_of_length_le (by omega)
  · exact (hx k (by omega)).symm

end Sys2Proof.Machine
end

section
/-! SUPPORT. The index draws of R193: the words at which the indices are drawn are determined, and after any number of words the
model has made the draws that they give. -/

namespace Sys2Proof.Machine

open Sys2Proof.Claims

/-! ### The words at which the indices are drawn -/

/-- Index k is drawn at the word `pos k`: the condition that `DrawnAbove` puts on each index. -/
def DrawnAt (n : ℕ) (words : List ℕ) (pos : ℕ → ℕ) (k : ℕ) : Prop :=
  pos k < words.length ∧ masked words (pos k) k ≤ k ∧ After n pos k (pos k) ∧ ∀ x < pos k, After n pos k x → k < masked words x k

/-- The indices above i are drawn at the same words. -/
def SameAbove (n : ℕ) (pos pos' : ℕ → ℕ) (i : ℕ) : Prop := ∀ k < n - 1, i < k → pos k = pos' k

theorem drawnAbove_mono {n : ℕ} {words : List ℕ} {pos : ℕ → ℕ} {i i' : ℕ} (h : DrawnAbove n words pos i) (hi : i ≤ i') :
    DrawnAbove n words pos i' := fun k hk hik => h k hk (hi.trans_lt hik)

theorem after_mono {n : ℕ} {pos : ℕ → ℕ} {i x y : ℕ} (h : After n pos i x) (hxy : x ≤ y) : After n pos i y :=
  fun k hk hik => (h k hk hik).trans_le hxy

theorem SameAbove.symm {n : ℕ} {pos pos' : ℕ → ℕ} {i : ℕ} (h : SameAbove n pos pos' i) : SameAbove n pos' pos i :=
  fun k hk hik => (h k hk hik).symm

/-- Which words are left for an index depends on the words of the indices above it only. -/
theorem SameAbove.after_iff {n : ℕ} {pos pos' : ℕ → ℕ} {i : ℕ} (h : SameAbove n pos pos' i) (x : ℕ) :
    After n pos i x ↔ After n pos' i x :=
  forall₃_congr fun k hk hik => by rw [h k hk hik]

theorem SameAbove.drawnAbove_iff {n : ℕ} {words : List ℕ} {pos pos' : ℕ → ℕ} {i : ℕ} (h : SameAbove n pos pos' i) :
    DrawnAbove n words pos i ↔ DrawnAbove n words pos' i :=
  forall₃_congr fun k hk hik => by
    have habove : SameAbove n pos pos' k := fun m hm hkm => h m hm (hik.trans hkm)
    simp only [h k hk hik, habove.after_iff]

/-- The first acceptable word for an index comes no later than any other. -/
theorem DrawnAt.pos_le {n : ℕ} {words : List ℕ} {pos pos' : ℕ → ℕ} {k : ℕ} (h : DrawnAt n words pos k)
    (h' : DrawnAt n words pos' k) (hsame : SameAbove n pos pos' k) : pos' k ≤ pos k := by
  obtain ⟨-, haccept, hafter, -⟩ := h
  obtain ⟨-, -, -, hfirst⟩ := h'
  by_contra hlt
  exact (hfirst (pos k) (Nat.lt_of_not_le hlt) ((hsame.after_iff _).1 hafter)).not_ge haccept

/-- From the top index down, each index is drawn at one word only. -/
theorem sameAbove_of_drawnAbove {n : ℕ} {words : List ℕ} {pos pos' : ℕ → ℕ} {i : ℕ} (h : DrawnAbove n words pos i)
    (h' : DrawnAbove n words pos' i) : SameAbove n pos pos' i := fun k hk hik =>
  have hsame : SameAbove n pos pos' k := sameAbove_of_drawnAbove (drawnAbove_mono h hik.le) (drawnAbove_mono h' hik.le)
  le_antisymm (DrawnAt.pos_le (h' k hk hik) (h k hk hik) hsame.symm) (DrawnAt.pos_le (h k hk hik) (h' k hk hik) hsame)
termination_by n - 1 - i

/-- The draws of the words are determined. -/
theorem isDraws_unique {n : ℕ} {words js js' : List ℕ} (h : IsDraws n words js) (h' : IsDraws n words js') : js = js' := by
  obtain ⟨hlen, hle, pos, hdrawn, hval⟩ := h
  obtain ⟨hlen', hle', pos', hdrawn', hval'⟩ := h'
  refine List.ext_getElem (hlen.trans hlen'.symm) fun k hk hk' => ?_
  rw [← List.getD_eq_getElem _ 0 hk, ← List.getD_eq_getElem _ 0 hk']
  have hkn : k < n - 1 := hlen ▸ hk
  obtain rfl | hpos := Nat.eq_zero_or_pos k
  · rw [Nat.le_zero.1 (hle 0 hkn), Nat.le_zero.1 (hle' 0 hkn)]
  · rw [hval k hkn hpos, hval' k hkn hpos, sameAbove_of_drawnAbove hdrawn hdrawn' k hkn hpos]

/-- Where the draws are made the words do not run out. -/
theorem not_runsOut_of_isDraws {n : ℕ} {words js : List ℕ} (h : IsDraws n words js) : ¬ RunsOut n words := by
  obtain ⟨-, -, pos, hdrawn, -⟩ := h
  rintro ⟨i, hi, hin, pos', hdrawn', hout⟩
  obtain ⟨hlt, haccept, hafter, -⟩ := hdrawn i hin hi
  have hsame := sameAbove_of_drawnAbove (drawnAbove_mono hdrawn (Nat.zero_le i)) hdrawn'
  exact (hout (pos i) hlt ((hsame.after_iff _).1 hafter)).not_ge haccept

/-! ### The draws that the model makes -/

theorem drawStep_zero (js : List ℕ) (w : ℕ) : drawStep (0, js) w = (0, js) := rfl

theorem drawStep_succ (i : ℕ) (js words : List ℕ) (t : ℕ) :
    drawStep (i + 1, js) (words.getD t 0) =
      if masked words t (i + 1) ≤ i + 1 then (i, masked words t (i + 1) :: js) else (i + 1, js) := rfl

/-- What holds of the state (i, js) of the index draws after the first t words: js are the draws of the indices above i, made
at the words `pos`, and each of the t words that is left for i has been rejected. -/
structure DrawsAfter (n : ℕ) (words : List ℕ) (t : ℕ) (st : ℕ × List ℕ) (pos : ℕ → ℕ) : Prop where
  length : st.1 + st.2.length = n - 2
  drawn : DrawnAbove n words pos st.1
  value : ∀ k < n - 1, st.1 < k → st.2.getD (k - st.1 - 1) 0 = masked words (pos k) k
  spent : After n pos st.1 t
  rejected : 0 < st.1 → ∀ x < t, After n pos st.1 x → st.1 < masked words x st.1

theorem drawsAfter_zero (n : ℕ) (words : List ℕ) (pos : ℕ → ℕ) : DrawsAfter n words 0 (n - 2, []) pos where
  length := rfl
  drawn k hk hik := absurd hk (by omega)
  value k hk hik := absurd hk (by omega)
  spent k hk hik := absurd hk (by omega)
  rejected _ x hx := absurd hx (Nat.not_lt_zero x)

/-- When index 1 is drawn the next word changes nothing. -/
theorem DrawsAfter.ignore {n t : ℕ} {words js : List ℕ} {pos : ℕ → ℕ} (h : DrawsAfter n words t (0, js) pos) :
    DrawsAfter n words (t + 1) (0, js) pos :=
  { h with
    spent := after_mono h.spent t.le_succ
    rejected := fun hpos => absurd hpos (lt_irrefl 0) }

/-- A word that is more than the index when masked is spent on it. -/
theorem DrawsAfter.reject {n t i : ℕ} {words js : List ℕ} {pos : ℕ → ℕ} (h : DrawsAfter n words t (i, js) pos)
    (hreject : i < masked words t i) : DrawsAfter n words (t + 1) (i, js) pos :=
  { h with
    spent := after_mono h.spent t.le_succ
    rejected := fun hpos x hx hafter => by
      obtain rfl | hlt := Nat.eq_or_lt_of_le (Nat.le_of_lt_succ hx)
      · exact hreject
      · exact h.rejected hpos x hlt hafter }

/-- What holds at one index and at those above it holds from there up. -/
theorem forall_above_of_succ {n i : ℕ} {P : ℕ → Prop} (hnext : P (i + 1)) (habove : ∀ k < n - 1, i + 1 < k → P k) :
    ∀ k < n - 1, i < k → P k := fun k hk hik => by
  obtain rfl | hlt := Nat.eq_or_lt_of_le (Nat.succ_le_of_lt hik)
  · exact hnext
  · exact habove k hk hlt

/-- A word that is at most the index when masked is its draw. -/
theorem DrawsAfter.accept {n t i : ℕ} {words js : List ℕ} {pos : ℕ → ℕ} (h : DrawsAfter n words t (i + 1, js) pos)
    (ht : t < words.length) (haccept : masked words t (i + 1) ≤ i + 1) :
    DrawsAfter n words (t + 1) (i, masked words t (i + 1) :: js) (Function.update pos (i + 1) t) := by
  have hlen : i + 1 + js.length = n - 2 := h.length
  have hnew : Function.update pos (i + 1) t (i + 1) = t := Function.update_self ..
  have hsame : SameAbove n (Function.update pos (i + 1) t) pos (i + 1) := fun k _ hk => Function.update_of_ne hk.ne' ..
  refine ⟨?_, forall_above_of_succ ?_ (hsame.drawnAbove_iff.2 h.drawn), forall_above_of_succ ?_ fun k hk hik => ?_,
    forall_above_of_succ ?_ fun k hk hik => ?_, fun _ x hx hafter => ?_⟩
  · rw [List.length_cons]
    omega
  · rw [hnew]
    exact ⟨ht, haccept, (hsame.after_iff t).2 h.spent, fun x hx hafter =>
      h.rejected i.succ_pos x hx ((hsame.after_iff x).1 hafter)⟩
  · rw [hnew, Nat.add_sub_cancel_left, Nat.sub_self, List.getD_cons_zero]
  · rw [show k - i - 1 = k - (i + 1) - 1 + 1 by omega, List.getD_cons_succ, hsame k hk hik]
    exact h.value k hk hik
  · rw [hnew]
    exact t.lt_succ_self
  · rw [hsame k hk hik]
    exact (h.spent k hk hik).trans t.lt_succ_self
  · have hxt := hafter (i + 1) (by omega) i.lt_succ_self
    rw [hnew] at hxt
    omega

/-- One word keeps it, with the word drawn or rejected for the index sought, or ignored when index 1 is drawn. -/
theorem DrawsAfter.drawStep {n t : ℕ} {words : List ℕ} {st : ℕ × List ℕ} {pos : ℕ → ℕ} (h : DrawsAfter n words t st pos)
    (ht : t < words.length) : ∃ pos', DrawsAfter n words (t + 1) (drawStep st (words.getD t 0)) pos' := by
  obtain ⟨_ | i, js⟩ := st
  · rw [drawStep_zero]
    exact ⟨pos, h.ignore⟩
  · rw [drawStep_succ]
    split
    · next haccept => exact ⟨_, h.accept ht haccept⟩
    · next hreject => exact ⟨pos, h.reject (Nat.lt_of_not_le hreject)⟩

theorem exists_drawsAfter_take (n : ℕ) (words : List ℕ) :
    ∀ t ≤ words.length, ∃ pos, DrawsAfter n words t ((words.take t).foldl drawStep (n - 2, [])) pos := by
  intro t
  induction t with
  | zero => exact fun _ => ⟨id, drawsAfter_zero n words id⟩
  | succ t ih =>
    intro ht
    obtain ⟨pos, hpos⟩ := ih (Nat.le_of_succ_le ht)
    rw [List.take_succ_eq_append_getElem ht, List.foldl_append, ← List.getD_eq_getElem _ 0 ht]
    exact hpos.drawStep ht

theorem exists_drawsAfter (n : ℕ) (words : List ℕ) :
    ∃ pos, DrawsAfter n words words.length (words.foldl drawStep (n - 2, [])) pos := by
  simpa using exists_drawsAfter_take n words words.length le_rfl

/-- When index 1 is drawn the draws are those of the rule, j[0] = 0 in front. -/
theorem DrawsAfter.isDraws {n : ℕ} {words js : List ℕ} {pos : ℕ → ℕ} (hn : 1 < n)
    (h : DrawsAfter n words words.length (0, js) pos) : IsDraws n words (0 :: js) := by
  have hval : ∀ k < n - 1, 0 < k → (0 :: js).getD k 0 = masked words (pos k) k := fun k hk hpos => by
    obtain ⟨k, rfl⟩ := Nat.exists_eq_add_one.2 hpos
    exact h.value (k + 1) hk hpos
  refine ⟨?_, fun k hk => ?_, pos, h.drawn, hval⟩
  · have hlen := h.length
    simp only [List.length_cons] at hlen ⊢
    omega
  · obtain rfl | hpos := Nat.eq_zero_or_pos k
    · exact le_rfl
    · rw [hval k hk hpos]
      exact (h.drawn k hk hpos).2.1

/-- When the words end before index 1 is drawn they have run out. -/
theorem DrawsAfter.runsOut {n : ℕ} {words : List ℕ} {st : ℕ × List ℕ} {pos : ℕ → ℕ}
    (h : DrawsAfter n words words.length st pos) (hpos : 0 < st.1) : RunsOut n words :=
  ⟨st.1, hpos, by have := h.length; omega, pos, h.drawn, h.rejected hpos⟩

/-- The model makes the draws of R193, or the words run out. -/
theorem indexDraws_answer {p : Params} (hp : p.wf = true) (words : List ℕ) :
    (∃ js, indexDraws p words = some js ∧ IsDraws p.n words js) ∨ (indexDraws p words = none ∧ RunsOut p.n words) := by
  obtain ⟨pos, hpos⟩ := exists_drawsAfter p.n words
  unfold indexDraws
  generalize words.foldl drawStep (p.n - 2, []) = st at hpos ⊢
  obtain ⟨i, js⟩ := st
  obtain rfl | hi := Nat.eq_zero_or_pos i
  · exact .inl ⟨0 :: js, rfl, hpos.isDraws (one_lt_n hp)⟩
  · exact .inr ⟨if_pos hi, hpos.runsOut hi⟩

theorem indexDraws_eq_some_iff {p : Params} (hp : p.wf = true) (words js : List ℕ) :
    indexDraws p words = some js ↔ IsDraws p.n words js := by
  obtain ⟨js', hsome, hdraws⟩ | ⟨hnone, hout⟩ := indexDraws_answer hp words
  · rw [hsome, Option.some_inj]
    exact ⟨fun h => h ▸ hdraws, isDraws_unique hdraws⟩
  · simp only [hnone, reduceCtorEq, false_iff]
    exact fun h => not_runsOut_of_isDraws h hout

theorem indexDraws_eq_none_iff {p : Params} (hp : p.wf = true) (words : List ℕ) :
    indexDraws p words = none ↔ RunsOut p.n words := by
  obtain ⟨js, hsome, hdraws⟩ | ⟨hnone, hout⟩ := indexDraws_answer hp words
  · simp only [hsome, reduceCtorEq, false_iff]
    exact not_runsOut_of_isDraws hdraws
  · exact iff_of_true hnone hout

end Sys2Proof.Machine

namespace Sys2Proof.Proofs

open Sys2Proof Sys2Proof.Machine Sys2Proof.Claims

/-- Settles O27: after any number of words the model has made the draws that they give, and these are determined. -/
theorem indexDrawsInRange : Obligations.IndexDrawsInRange := fun _ words hp =>
  ⟨indexDraws_eq_some_iff hp words, indexDraws_eq_none_iff hp words⟩

end Sys2Proof.Proofs
end

section
/-! SUPPORT. The fixed-weight sampler: the counter pass of R194 and the shuffle of R196 go through the same sorted lists, the shuffle
permutes its template, and SAMPFW answers the samples of R195. -/

namespace Sys2Proof.Machine

open Sys2Proof.Claims

/-! ### The counter pass and the shuffle (R194, R196) -/

/-- A draw array: j[i] is at most i. -/
def IsDrawArray (js : List ℕ) : Prop := ∀ i < js.length, js.getD i 0 ≤ i

/-- The draw for the top index, and those for the indices below it. -/
theorem IsDrawArray.of_append {js : List ℕ} {j : ℕ} (h : IsDrawArray (js ++ [j])) : IsDrawArray js ∧ j ≤ js.length := by
  refine ⟨fun i hi => ?_, ?_⟩
  · have := h i (by rw [List.length_append]; omega)
    rwa [List.getD_append _ _ _ _ hi] at this
  · have := h js.length (by simp)
    rwa [List.getD_append_right _ _ _ _ le_rfl, Nat.sub_self] at this

/-- c1 ones, then c2 twos, then z zeros: what is left of the template (R196). -/
def sortedTrits (c1 c2 z : ℕ) : List ℤ := List.replicate c1 1 ++ List.replicate c2 2 ++ List.replicate z 0

@[simp] theorem length_sortedTrits (c1 c2 z : ℕ) : (sortedTrits c1 c2 z).length = c1 + c2 + z := by simp [sortedTrits, Nat.add_assoc]

theorem template_eq_sortedTrits (p : Params) :
    template p = sortedTrits (p.weight / 2) (p.weight / 2) (p.n - 1 - p.weight) := rfl

/-- The element at index j (R196). -/
theorem getD_sortedTrits (c1 c2 z j : ℕ) :
    (sortedTrits c1 c2 z).getD j 0 = if j < c1 then 1 else if j < c1 + c2 then 2 else 0 := by
  by_cases hone : j < c1
  · simp [sortedTrits, List.getElem?_append, hone]
  · by_cases htwo : j < c1 + c2
    · have hidx : j - c1 < c2 := by omega
      simp [sortedTrits, List.getElem?_append, hone, htwo, hidx]
    · simp only [sortedTrits, List.getD_eq_getElem?_getD, List.getElem?_append, List.length_append, List.length_replicate,
        List.getElem?_replicate, if_neg hone, if_neg htwo]
      split <;> rfl

/-- The counters say which element of the template is drawn, and the step leaves the counters of what remains (R196). -/
theorem counterStep_sortedTrits {j c1 c2 z : ℕ} (hj : j < c1 + c2 + z) (out : List ℤ) :
    ∃ c1' c2' z', (sortedTrits c1 c2 z).eraseIdx j = sortedTrits c1' c2' z' ∧
      counterStep j (c1, c2, out) = (c1', c2', (sortedTrits c1 c2 z).getD j 0 :: out) := by
  simp only [getD_sortedTrits, counterStep]
  split
  · next hone =>
    refine ⟨c1 - 1, c2, z, ?_, rfl⟩
    simp [sortedTrits, List.eraseIdx_append, List.eraseIdx_replicate, hone]
  · next hone =>
    split
    · next htwo =>
      have hidx : j - c1 < c2 := by omega
      refine ⟨c1, c2 - 1, z, ?_, rfl⟩
      simp [sortedTrits, List.eraseIdx_append, List.eraseIdx_replicate, hone, hidx]
    · next htwo =>
      have hidx : ¬ j - c1 < c2 := by omega
      have hidx' : j - c1 - c2 < z := by omega
      refine ⟨c1, c2, z - 1, ?_, rfl⟩
      simp [sortedTrits, List.eraseIdx_append, List.eraseIdx_replicate, hone, hidx, hidx']

/-- From the counters of a sorted list the counter pass gives the outputs of its shuffle. -/
theorem foldr_counterStep {js : List ℕ} (hjs : IsDrawArray js) {c1 c2 z : ℕ} (hlen : js.length = c1 + c2 + z) (out : List ℤ) :
    (js.foldr counterStep (c1, c2, out)).2.2 = (shuffleDown js.reverse (sortedTrits c1 c2 z)).reverse ++ out := by
  induction js using List.reverseRecOn generalizing c1 c2 z out with
  | nil => rfl
  | append_singleton js j ih =>
    obtain ⟨hjs', hj⟩ := hjs.of_append
    rw [List.length_append, List.length_singleton] at hlen
    obtain ⟨c1', c2', z', herase, hstep⟩ := counterStep_sortedTrits (show j < c1 + c2 + z by omega) out
    have hlen' : js.length = c1' + c2' + z' := by
      have := congrArg List.length herase
      rw [List.length_eraseIdx_of_lt (by rw [length_sortedTrits]; omega)] at this
      simp only [length_sortedTrits] at this
      omega
    rw [List.foldr_append, List.foldr_cons, List.foldr_nil, hstep, ih hjs' hlen', List.reverse_append, List.reverse_singleton,
      List.singleton_append, shuffleDown, herase, List.reverse_cons, List.append_assoc, List.singleton_append]

theorem weight_even {p : Params} (h : p.wf = true) : p.weight % 2 = 0 := by
  simp only [Params.wf, Bool.and_eq_true, decide_eq_true_eq] at h
  tauto

theorem length_template {p : Params} (hp : p.wf = true) : (template p).length = p.n - 1 := by
  have hle := (params_bounds hp).2.2.1
  have heven := weight_even hp
  rw [template_eq_sortedTrits, length_sortedTrits]
  omega

/-- R196: the counter pass gives the outputs of the shuffle. -/
theorem counterPass_eq_shuffle {p : Params} (hp : p.wf = true) {js : List ℕ} (hlen : js.length = p.n - 1)
    (hjs : IsDrawArray js) : counterPass p js = shuffle p js := by
  rw [← length_template hp, template_eq_sortedTrits, length_sortedTrits] at hlen
  rw [counterPass, foldr_counterStep hjs hlen, List.append_nil, shuffle, template_eq_sortedTrits]

/-- The shuffle takes each element of its template once. -/
theorem shuffleDown_perm {js : List ℕ} (hjs : IsDrawArray js) {T : List ℤ} (hlen : js.length = T.length) :
    (shuffleDown js.reverse T).Perm T := by
  induction js using List.reverseRecOn generalizing T with
  | nil => rw [List.length_eq_zero_iff.1 hlen.symm]; rfl
  | append_singleton js j ih =>
    obtain ⟨hjs', hj⟩ := hjs.of_append
    rw [List.length_append, List.length_singleton] at hlen
    have hjT : j < T.length := by omega
    have hlen' : js.length = (T.eraseIdx j).length := by rw [List.length_eraseIdx_of_lt hjT]; omega
    rw [List.reverse_append, List.reverse_singleton, List.singleton_append, shuffleDown, List.getD_eq_getElem _ _ hjT]
    exact ((ih hjs' hlen').cons _).trans (List.getElem_cons_eraseIdx_perm hjT)

/-! ### SAMPFW (R195, R197) -/

theorem isDrawArray_of_isDraws {n : ℕ} {words js : List ℕ} (h : IsDraws n words js) : js.length = n - 1 ∧ IsDrawArray js := by
  obtain ⟨hlen, hle, -⟩ := h
  exact ⟨hlen, fun i hi => hle i (hlen ▸ hi)⟩

theorem shuffle_perm_template {p : Params} (hp : p.wf = true) {words js : List ℕ} (h : IsDraws p.n words js) :
    (shuffle p js).Perm (template p) := by
  obtain ⟨hlen, hjs⟩ := isDrawArray_of_isDraws h
  exact (List.reverse_perm _).trans (shuffleDown_perm hjs (hlen.trans (length_template hp).symm))

theorem length_shuffle {p : Params} (hp : p.wf = true) {words js : List ℕ} (h : IsDraws p.n words js) :
    (shuffle p js).length = p.n - 1 :=
  (shuffle_perm_template hp h).length_eq.trans (length_template hp)

theorem drawWords_eq_wordsOf (p : Params) (bytes : List Byte) : drawWords p bytes = wordsOf p bytes := rfl

theorem sampFwFn_of_isDraws {p : Params} (hp : p.wf = true) {bytes : List Byte} {js : List ℕ}
    (h : IsDraws p.n (wordsOf p bytes) js) : sampFwFn p bytes = some (shuffle p js ++ [0]) := by
  obtain ⟨hlen, hjs⟩ := isDrawArray_of_isDraws h
  have hn := one_lt_n hp
  have hlast : (shuffle p js).length + 1 = p.n := by rw [length_shuffle hp h]; omega
  simp only [sampFwFn, drawWords_eq_wordsOf, (indexDraws_eq_some_iff hp _ _).2 h, counterPass_eq_shuffle hp hlen hjs,
    ofCoeffs_lastZero hlast fun _ _ => rfl]

theorem sampFwFn_eq_none_iff {p : Params} (hp : p.wf = true) {bytes : List Byte} :
    sampFwFn p bytes = none ↔ RunsOut p.n (wordsOf p bytes) := by
  rw [← indexDraws_eq_none_iff hp, sampFwFn, drawWords_eq_wordsOf]
  cases indexDraws p (wordsOf p bytes) <;> simp

/-- SAMPFW's function answers the samples of R195. -/
theorem sampFwFn_eq_some_iff {p : Params} (hp : p.wf = true) {bytes : List Byte} {c : Poly} :
    sampFwFn p bytes = some c ↔ IsFwSample p bytes c := by
  constructor
  · intro h
    obtain ⟨js, -, hjs⟩ | ⟨-, hout⟩ := indexDraws_answer hp (wordsOf p bytes)
    · rw [sampFwFn_of_isDraws hp hjs, Option.some_inj] at h
      exact ⟨js, hjs, h.symm⟩
    · rw [(sampFwFn_eq_none_iff hp).2 hout] at h
      cases h
  · rintro ⟨js, hjs, rfl⟩
    exact sampFwFn_of_isDraws hp hjs

/-- Over its own length a polynomial has each value as often as its list does. -/
theorem countOf_length (a : Poly) (x : ℤ) : countOf a.length a x = a.count x := by
  have ha : a = (List.range a.length).map (coeff a) := (eq_ofCoeffs_iff rfl).2 fun _ _ => rfl
  conv_rhs => rw [ha, List.count, List.countP_map, List.countP_eq_length_filter]
  simp only [countOf, Finset.card_def, Finset.filter_val, Finset.range_val, Multiset.range, Multiset.filter_coe,
    Multiset.coe_card]
  congr 1

theorem countOf_append_zero (n : ℕ) (a : Poly) (x : ℤ) : countOf n (a ++ [0]) x = countOf n a x := by
  simp only [countOf, coeff_append_zero]

theorem count_template (p : Params) :
    (template p).count 1 = p.weight / 2 ∧ (template p).count 2 = p.weight / 2 ∧
      (template p).count 0 = p.n - 1 - p.weight := by
  simp [template, List.count_replicate]

/-- R197: each value as often as in the template. -/
theorem countOf_fwSample {p : Params} (hp : p.wf = true) {bytes : List Byte} {c : Poly} (h : IsFwSample p bytes c) (x : ℤ) :
    countOf (p.n - 1) c x = (template p).count x := by
  obtain ⟨js, hjs, rfl⟩ := h
  rw [countOf_append_zero, ← length_shuffle hp hjs, countOf_length, (shuffle_perm_template hp hjs).count_eq]

end Sys2Proof.Machine

namespace Sys2Proof.Proofs

open Sys2Proof Sys2Proof.Machine Sys2Proof.Claims

/-- Settles O28: before each step the counters are those of the sorted list that the shuffle has left. -/
theorem counterPassIsShuffle : Obligations.CounterPassIsShuffle := fun _ _ hp hlen hjs =>
  counterPass_eq_shuffle hp hlen (by rwa [IsDrawArray, hlen])

/-- Settles O29: the sample is a permutation of the template, with 0 after it. -/
theorem sampfwHasFixedWeight : Obligations.SampfwHasFixedWeight := by
  intro p bytes c hp hc
  have hsample := (sampFwFn_eq_some_iff hp).1 hc
  have hcount (x : ℤ) := countOf_fwSample hp hsample x
  obtain ⟨js, hjs, rfl⟩ := hsample
  obtain ⟨hones, htwos, hzeros⟩ := count_template p
  refine ⟨(hcount 1).trans hones, (hcount 2).trans htwos, (hcount 0).trans hzeros, ?_⟩
  rw [coeff_append_zero]
  exact coeff_of_length_le (length_shuffle hp hjs).le

/-- Settles O26: the index draws decide which sample there is, and SAMPFW leaves it or free values. -/
theorem sampfwWritesShuffle : Obligations.SampfwWritesShuffle := by
  intro s f d hp hf hd
  have hexec : exec (.sampfw d) s = completeSample s d (sampFwFn s.params f.in0) := whileInFlight_of hf _
  obtain ⟨t, ht, hsample, hnone⟩ := completes_sample hd hexec fun _ => length_of_sampFwFn
  refine ⟨t, ht, fun js hjs => ?_, fun hno => hnone ?_⟩
  · obtain ⟨hdone, hwrites⟩ := hsample _ (sampFwFn_of_isDraws hp hjs)
    refine ⟨hdone, writes_congr hwrites fun k hk => ?_⟩
    rw [coeff_append_zero]
    split
    · next hlast => rw [coeff_of_length_le (by rw [length_shuffle hp hjs]; omega)]; rfl
    · rfl
  · rw [Option.eq_none_iff_forall_ne_some]
    intro c hc
    obtain ⟨js, hjs, -⟩ := (sampFwFn_eq_some_iff hp).1 hc
    exact hno ⟨js, hjs⟩

end Sys2Proof.Proofs
end

section
/-! SUPPORT. The uniform samplers: the scan of R191 keeps the first N − 1 accepted bytes, and the sign fix of R198 makes the
correlation its absolute value. -/

namespace Sys2Proof.Machine

open Sys2Proof.Claims

/-! ### The scan (R191) -/

/-- The accepted draws as numbers. -/
def acceptedDraws (bytes : List Byte) : List ℕ := (bytes.filter fun b => decide (b.toNat < 255)).map fun b => b.toNat % 3

theorem acceptedTrits_eq_map (bytes : List Byte) : acceptedTrits bytes = (acceptedDraws bytes).map Nat.cast := by
  simp [acceptedTrits, acceptedDraws]

/-- The scan adds accepted draws while fewer than N − 1 are made. -/
theorem foldl_scanByte (p : Params) (bytes : List Byte) (acc : List ℕ) :
    bytes.foldl (scanByte p) acc = acc ++ (acceptedDraws bytes).take (p.n - 1 - acc.length) := by
  induction bytes generalizing acc with
  | nil => simp [acceptedDraws]
  | cons b bytes ih =>
    rw [List.foldl_cons, ih, scanByte]
    by_cases hb : b.toNat < 255
    · have hcons : acceptedDraws (b :: bytes) = b.toNat % 3 :: acceptedDraws bytes := by simp [acceptedDraws, hb]
      by_cases hacc : acc.length < p.n - 1
      · have hleft : p.n - 1 - acc.length = p.n - 1 - (acc.length + 1) + 1 := by omega
        rw [if_pos ⟨hacc, hb⟩, hcons, hleft, List.take_succ_cons, List.length_append, List.length_singleton,
          List.append_assoc, List.singleton_append]
      · rw [if_neg fun h => hacc h.1, Nat.sub_eq_zero_of_le (Nat.le_of_not_lt hacc), List.take_zero, List.take_zero]
    · have hskip : acceptedDraws (b :: bytes) = acceptedDraws bytes := by simp [acceptedDraws, hb]
      rw [if_neg fun h => hb h.2, hskip]

theorem scan_eq_take (p : Params) (bytes : List Byte) : scan p bytes = (acceptedDraws bytes).take (p.n - 1) :=
  foldl_scanByte p bytes []

theorem length_scan (p : Params) (bytes : List Byte) :
    (scan p bytes).length = min (p.n - 1) (acceptedTrits bytes).length := by
  rw [scan_eq_take, List.length_take, acceptedTrits_eq_map, List.length_map]

theorem coeff_map_cast (vs : List ℕ) (k : ℕ) : coeff (vs.map Nat.cast) k = (vs.getD k 0 : ℕ) := List.getD_map vs 0 Nat.cast

theorem coeff_acceptedTrits (p : Params) (bytes : List Byte) {k : ℕ} (hk : k < p.n - 1) :
    coeff (acceptedTrits bytes) k = ((scan p bytes).getD k 0 : ℕ) := by
  rw [acceptedTrits_eq_map, coeff_map_cast, scan_eq_take]
  simp only [List.getD_eq_getElem?_getD, List.getElem?_take_of_lt hk]

theorem scan_getD_le_two (p : Params) (bytes : List Byte) (k : ℕ) : (scan p bytes).getD k 0 ≤ 2 := by
  obtain hlt | hle := Nat.lt_or_ge k (scan p bytes).length
  · have hmem : (scan p bytes).getD k 0 ∈ (acceptedDraws bytes).take (p.n - 1) := by
      rw [List.getD_eq_getElem _ _ hlt, ← scan_eq_take]
      exact List.getElem_mem hlt
    obtain ⟨b, -, hb⟩ := List.mem_map.1 (List.mem_of_mem_take hmem)
    omega
  · rw [List.getD_eq_default _ _ hle]
    exact Nat.zero_le 2

/-! ### SAMPIID (R191) -/

/-- SAMPIID exhausts where the scan does, and answers its draws with 0 after them. -/
theorem sampIidFn_eq (p : Params) (bytes : List Byte) :
    sampIidFn p bytes =
      if (scan p bytes).length < p.n - 1 then none
      else some (ofCoeffs p.n fun k => if k = p.n - 1 then 0 else ((scan p bytes).getD k 0 : ℕ)) := by
  have hlen : (acceptedTrits bytes).length < p.n - 1 ↔ (scan p bytes).length < p.n - 1 := by rw [length_scan]; omega
  rw [sampIidFn]
  refine if_congr hlen rfl (congrArg some (List.map_congr_left fun k hk => ?_))
  have hkn := List.mem_range.1 hk
  split
  · rfl
  · exact coeff_acceptedTrits p bytes (by omega)

/-- The sample of R191 with the draws of the scan read as integers one by one. -/
theorem iidSample_eq (p : Params) (bytes : List Byte) :
    iidSample p bytes =
      if (scan p bytes).length < p.n - 1 then none else some ((scan p bytes).map Nat.cast ++ [0]) := by
  rw [iidSample, List.map_id', List.map_eq_flatMap]
  rfl

/-- The model's sample of SAMPIID is that of R191. -/
theorem sampIidFn_eq_iidSample {p : Params} (hn : 0 < p.n) (bytes : List Byte) : sampIidFn p bytes = iidSample p bytes := by
  rw [sampIidFn_eq, iidSample_eq]
  split
  · rfl
  · next hmade =>
    have hlen : ((scan p bytes).map (Nat.cast : ℕ → ℤ)).length + 1 = p.n := by
      have := length_scan p bytes
      rw [List.length_map]
      omega
    rw [ofCoeffs_lastZero hlen fun k _ => (coeff_map_cast _ k).symm]

theorem inT3_of_iidSample {p : Params} {bytes : List Byte} {c : Poly} (h : iidSample p bytes = some c) (n : ℕ) :
    inT3 n c = true := by
  rw [iidSample_eq] at h
  split at h
  · cases h
  · cases h
    refine inT3_iff.2 fun k _ => ?_
    have hle := scan_getD_le_two p bytes k
    rw [coeff_append_zero, coeff_map_cast]
    omega

/-! ### The sign fix (R198) -/

/-- The T3 value of the opposite signed trit. -/
theorem unsignedTrit_neg_signedTrit {x : ℤ} (hx : 0 ≤ x ∧ x ≤ 2) : unsignedTrit (-signedTrit x) = (3 - x) % 3 := by
  obtain rfl | rfl | rfl : x = 0 ∨ x = 1 ∨ x = 2 := by omega
  all_goals rfl

theorem unsignedTrit_signedTrit {x : ℤ} (hx : 0 ≤ x ∧ x ≤ 2) : unsignedTrit (signedTrit x) = x := by
  obtain rfl | rfl | rfl : x = 0 ∨ x = 1 ∨ x = 2 := by omega
  all_goals rfl

/-- Exchanging 1 and 2 changes the sign of the signed trit. -/
theorem sigma_exchange {x : ℤ} (hx : 0 ≤ x ∧ x ≤ 2) : sigma ((3 - x) % 3) = -sigma x := by
  obtain rfl | rfl | rfl : x = 0 ∨ x = 1 ∨ x = 2 := by omega
  all_goals rfl

theorem correlation_eq_corr (n : ℕ) (c : Poly) : correlation n c = corr n c := sumTo_eq_sum _ _

/-- The model's sample of SAMPBI is that of R198. -/
theorem sampBiFn_eq_biSample {p : Params} (hn : 0 < p.n) (bytes : List Byte) : sampBiFn p bytes = biSample p bytes := by
  rw [sampBiFn, sampIidFn_eq_iidSample hn, biSample]
  cases hc : iidSample p bytes with
  | none => rfl
  | some c =>
    refine congrArg some (List.map_congr_left fun k hk => ?_)
    have htrit := inT3_iff.1 (inT3_of_iidSample hc p.n) k (List.mem_range.1 hk)
    dsimp only
    rw [correlation_eq_corr, signFix]
    split
    · exact unsignedTrit_neg_signedTrit htrit
    · exact unsignedTrit_signedTrit htrit

/-- Of two adjacent indices one is even, so that the sign fix changes the sign of every product of the correlation, or of none. -/
theorem sigma_signFix_mul {n : ℕ} {c : Poly} (hc : inT3 n c = true) {i : ℕ} (hi : i + 1 < n) :
    sigma (signFix n c (i + 1)) * sigma (signFix n c i) =
      if corr n c < 0 then -(sigma (coeff c (i + 1)) * sigma (coeff c i)) else sigma (coeff c (i + 1)) * sigma (coeff c i) := by
  have hnext := sigma_exchange (inT3_iff.1 hc (i + 1) hi)
  have hthis := sigma_exchange (inT3_iff.1 hc i (by omega))
  by_cases hneg : corr n c < 0
  · obtain heven | hodd := Nat.mod_two_eq_zero_or_one i
    · rw [signFix, signFix, if_neg (by omega), if_pos ⟨hneg, heven⟩, if_pos hneg, hthis, mul_neg]
    · rw [signFix, signFix, if_pos (by omega), if_neg (by omega), if_pos hneg, hnext, neg_mul]
  · rw [signFix, signFix, if_neg fun h => hneg h.1, if_neg fun h => hneg h.1, if_neg hneg]

/-- R198: after the sign fix the correlation is its absolute value. -/
theorem corr_signFix {n : ℕ} {c : Poly} (hc : inT3 n c = true) : corr n (ofCoeffs n (signFix n c)) = |corr n c| := by
  have hfix : corr n (ofCoeffs n (signFix n c)) = ∑ i ∈ Finset.range (n - 1),
      if corr n c < 0 then -(sigma (coeff c (i + 1)) * sigma (coeff c i)) else sigma (coeff c (i + 1)) * sigma (coeff c i) :=
    Finset.sum_congr rfl fun i hi => by
      have hin : i + 1 < n := Nat.add_lt_of_lt_sub (Finset.mem_range.1 hi)
      rw [coeff_ofCoeffs _ hin, coeff_ofCoeffs _ (Nat.lt_of_succ_lt hin), sigma_signFix_mul hc hin]
  rw [hfix]
  by_cases hneg : corr n c < 0
  · simp only [if_pos hneg, Finset.sum_neg_distrib, abs_of_neg hneg]
    rfl
  · simp only [if_neg hneg, abs_of_nonneg (not_lt.1 hneg)]
    rfl

end Sys2Proof.Machine

namespace Sys2Proof.Proofs

open Sys2Proof Sys2Proof.Machine Sys2Proof.Claims

/-- Settles O25: the first N − 1 accepted draws are the draws of the scan. -/
theorem sampiidWritesScan : Obligations.SampiidWritesScan := by
  intro s f d hf hd c
  have hexec : exec (.sampiid d) s = completeSample s d (sampIidFn s.params f.in0) := whileInFlight_of hf _
  obtain ⟨t, ht, hsample, hnone⟩ := completes_sample hd hexec fun _ => length_of_sampIidFn
  rw [sampIidFn_eq] at hsample hnone
  refine ⟨t, ht, fun hmade => ?_, fun hfewer => hnone (if_pos hfewer)⟩
  obtain ⟨hdone, hwrites⟩ := hsample _ (if_neg (Nat.not_lt.2 hmade))
  refine ⟨hdone, writes_congr hwrites fun k hk => ?_⟩
  rw [coeff_ofCoeffs _ hk]
  by_cases hlast : k = s.params.n - 1
  · rw [if_pos hlast, if_pos (by omega)]
    rfl
  · rw [if_neg hlast, if_neg (by omega), wordOf_natCast]

/-- Settles O30: SAMPBI answers the sample of R198, whose correlation is the absolute value of that of SAMPIID's sample. -/
theorem sampbiFixesSign : Obligations.SampbiFixesSign := by
  intro s f d hp hf hd
  have hexec : exec (.sampbi d) s = completeSample s d (sampBiFn s.params f.in0) := whileInFlight_of hf _
  obtain ⟨t, ht, hsample, hnone⟩ := completes_sample hd hexec fun _ => length_of_sampBiFn
  rw [sampBiFn_eq_biSample (Nat.zero_lt_of_lt (one_lt_n hp)), biSample] at hsample hnone
  refine ⟨t, ht, fun hexhausts => hnone (by rw [hexhausts]; rfl), fun c hc => ?_⟩
  obtain ⟨hdone, hwrites⟩ := hsample (ofCoeffs s.params.n (signFix s.params.n c)) (by rw [hc]; rfl)
  refine ⟨hdone, ofCoeffs s.params.n (signFix s.params.n c), hwrites, ?_, fun k hk => coeff_ofCoeffs _ hk⟩
  rw [corr_signFix (inT3_of_iidSample hc _)]
  exact abs_nonneg _

end Sys2Proof.Proofs
end

section
/-! SUPPORT. The transform of g (R222), the samples that a KEYPAIR seed gives (R221), and the products of the key generation and
of the decryption in S_Q, where R226 and R230 are equations. -/

namespace Sys2Proof.Machine

open Sys2Proof.Claims

theorem n_pos {p : Params} (hp : p.wf = true) : 0 < p.n := Nat.zero_lt_of_lt (one_lt_n hp)

/-! ### The transform of g (R222) -/

theorem coeff_transformG_fw {p : Params} (hfw : p.family = .fw) {g : Poly} (hg : inT3 p.n g = true) {k : ℕ} (hk : k < p.n) :
    coeff (transformG p g) k = 3 * tritQ p (coeff g k) % p.q := by
  simp only [transformG, hfw]
  rw [coeff_ofCoeffs _ hk, coeff_z3ToZqPoly hk (inT3_iff.1 hg k hk)]

/-- The product with x − 1 in R_Q (R156). -/
theorem coeff_timesXm1 {p : Params} (hp : p.wf = true) {k : ℕ} (hk : k < p.n) (a : Poly) :
    coeff (timesXm1 p a) k = cyc p.n xMinusOne (coeff a) k % p.q := by
  rw [timesXm1, coeff_ofCoeffs _ hk, cyc_xMinusOne (one_lt_n hp) hk]

/-- A convolution modulo m with Z3TOZQ of a polynomial in T3. -/
theorem cyc_z3ToZqPoly_emod {p : Params} {a : Poly} (ha : inT3 p.n a = true) (x : ℕ → ℤ) (m : ℤ) (k : ℕ) :
    cyc p.n x (coeff (z3ToZqPoly p a)) k % m = cyc p.n x (fun j => tritQ p (coeff a j)) k % m :=
  cyc_emod_congr (fun _ _ => rfl) (fun j hj => by rw [coeff_z3ToZqPoly hj (inT3_iff.1 ha j hj)]) k

theorem coeff_transformG_bi {p : Params} (hp : p.wf = true) (hbi : p.family = .bi) {g : Poly} (hg : inT3 p.n g = true) {k : ℕ}
    (hk : k < p.n) :
    coeff (transformG p g) k = 3 * cyc p.n xMinusOne (fun j => tritQ p (coeff g j)) k % p.q := by
  simp only [transformG, hbi]
  rw [coeff_ofCoeffs _ hk, coeff_timesXm1 hp hk, cyc_z3ToZqPoly_emod hg]
  exact Int.ModEq.mul_left 3 (Int.mod_modEq _ _)

/-! ### The samples of a seed (R221) -/

theorem coeff_last_of_iidSample {p : Params} (hn : 0 < p.n) {bytes : List Byte} {c : Poly}
    (h : iidSample p bytes = some c) : coeff c (p.n - 1) = 0 := by
  rw [← sampIidFn_eq_iidSample hn, sampIidFn_eq] at h
  split at h
  · cases h
  · cases h
    rw [coeff_ofCoeffs _ (Nat.sub_one_lt_of_lt hn), if_pos rfl]

/-- The sign fix leaves a sample in T3 with last coefficient 0 (R198). -/
theorem biSample_trits {p : Params} (hn : 0 < p.n) {bytes : List Byte} {c : Poly} (h : biSample p bytes = some c) :
    inT3 p.n c = true ∧ coeff c (p.n - 1) = 0 := by
  obtain ⟨a, ha, rfl⟩ := Option.map_eq_some_iff.1 h
  have hfix {k : ℕ} (hk : k < p.n) : coeff ((List.range p.n).map (signFix p.n a)) k = signFix p.n a k := coeff_ofCoeffs _ hk
  refine ⟨inT3_iff.2 fun k hk => ?_, ?_⟩
  · have htrit := inT3_iff.1 (inT3_of_iidSample ha p.n) k hk
    rw [hfix hk, signFix]
    split <;> omega
  · rw [hfix (Nat.sub_one_lt_of_lt hn), signFix, coeff_last_of_iidSample hn ha]
    exact ite_self 0

/-- A permutation of the template has the trits of the template only (R196). -/
theorem inT3_of_isFwSample {p : Params} (hp : p.wf = true) {bytes : List Byte} {c : Poly} (h : IsFwSample p bytes c) (n : ℕ) :
    inT3 n c = true := by
  obtain ⟨js, hjs, rfl⟩ := h
  refine inT3_iff.2 fun k _ => ?_
  rw [coeff_append_zero]
  obtain hlt | hle := Nat.lt_or_ge k (shuffle p js).length
  · have hmem : coeff (shuffle p js) k ∈ template p := by
      rw [coeff, List.getD_eq_getElem _ _ hlt]
      exact (shuffle_perm_template hp hjs).mem_iff.1 (List.getElem_mem hlt)
    simp only [template, List.mem_append, List.mem_replicate] at hmem
    omega
  · rw [coeff_of_length_le hle]
    decide

/-- Both samples are in T3, and f has last coefficient 0. -/
theorem trits_of_isSampleFG {p : Params} (hp : p.wf = true) {seed : List Byte} {f g : Poly} (h : IsSampleFG p seed f g) :
    inT3 p.n f = true ∧ inT3 p.n g = true ∧ coeff f (p.n - 1) = 0 := by
  have hn := n_pos hp
  unfold IsSampleFG at h
  split at h
  · obtain ⟨hf, hg⟩ := h
    exact ⟨inT3_of_iidSample hf p.n, inT3_of_isFwSample hp hg p.n, coeff_last_of_iidSample hn hf⟩
  · obtain ⟨hf, hg⟩ := h
    obtain ⟨htrits, hlast⟩ := biSample_trits hn hf
    exact ⟨htrits, (biSample_trits hn hg).1, hlast⟩

/-! ### The value at 1 modulo Q -/

/-- The sum of the coefficients mod Q is the value at 1. -/
theorem sum_emod_eq_zero_iff {n q : ℕ} {x : ℕ → ℤ} :
    (∑ k ∈ Finset.range n, x k) % q = 0 ↔ polyAt (1 : ZMod q) n x = 0 := by
  rw [← Int.dvd_iff_emod_eq_zero, ← ZMod.intCast_zmod_eq_zero_iff_dvd]
  simp [polyAt]

/-- MULQ multiplies the values at 1. -/
theorem polyAt_one_mulqFn (p : Params) (a b : Poly) :
    polyAt (1 : ZMod p.q) p.n (coeff (mulqFn p a b)) = polyAt 1 p.n (coeff a) * polyAt 1 p.n (coeff b) := by
  rw [← polyAt_cyc (one_pow _)]
  exact polyAt_congr fun k hk => by rw [coeff_mulqFn hk, ZMod.intCast_mod]

theorem polyAt_one_xMinusOne {B : Type*} [CommRing B] {n : ℕ} (hn : 1 < n) : polyAt (1 : B) n xMinusOne = 0 := by
  rw [polyAt, Finset.sum_eq_add_of_mem 0 1 (Finset.mem_range.2 (by omega)) (Finset.mem_range.2 hn) (by decide)
    fun i _ hi => by simp [xMinusOne, hi]]
  simp [xMinusOne]

/-- The sum of the signed trits is the number of ones less that of twos. -/
theorem sum_signedTrit {n : ℕ} {a : Poly} (ha : inT3 n a = true) :
    ∑ k ∈ Finset.range n, signedTrit (coeff a k) = (countOf n a 1 : ℤ) - countOf n a 2 := by
  rw [countOf, countOf, Finset.natCast_card_filter, Finset.natCast_card_filter, ← Finset.sum_sub_distrib]
  refine Finset.sum_congr rfl fun k hk => ?_
  obtain ⟨hlow, hhigh⟩ := inT3_iff.1 ha k (Finset.mem_range.1 hk)
  obtain h | h | h : coeff a k = 0 ∨ coeff a k = 1 ∨ coeff a k = 2 := by omega
  all_goals rw [h]; rfl

/-- R197: a fixed-weight sample has as many ones as twos. -/
theorem sum_signedTrit_fwSample {p : Params} (hp : p.wf = true) {bytes : List Byte} {c : Poly} (h : IsFwSample p bytes c) :
    ∑ k ∈ Finset.range p.n, signedTrit (coeff c k) = 0 := by
  obtain ⟨hones, htwos, -, hlast⟩ := Proofs.sampfwHasFixedWeight p bytes c hp ((sampFwFn_eq_some_iff hp).2 h)
  rw [← Nat.sub_one_add_one (n_pos hp).ne', Finset.sum_range_succ, hlast,
    sum_signedTrit (inT3_of_isFwSample hp h _), hones, htwos, sub_self]
  rfl

theorem polyAt_const_mul {B : Type*} [CommRing B] (r : B) (n : ℕ) (c : ℤ) (x : ℕ → ℤ) :
    polyAt r n (fun k => c * x k) = c * polyAt r n x := by
  simp only [polyAt, Int.cast_mul, mul_assoc, Finset.mul_sum]

theorem intCast_tritQ (p : Params) (x : ℤ) : ((tritQ p x : ℤ) : ZMod p.q) = signedTrit x :=
  (ZMod.intCast_eq_intCast_iff _ _ _).2 (tritQ_emod p x)

/-- In the FW family the transform of a sampled g has the value 0 at 1 for its weights (R197, R222). -/
theorem polyAt_one_transformG_fw {p : Params} (hp : p.wf = true) (hfw : p.family = .fw) {bytes : List Byte} {g : Poly}
    (h : IsFwSample p bytes g) : polyAt (1 : ZMod p.q) p.n (coeff (transformG p g)) = 0 := by
  have hscaled : ∀ k < p.n, (coeff (transformG p g) k : ZMod p.q) = (3 * signedTrit (coeff g k) : ℤ) := fun k hk => by
    rw [coeff_transformG_fw hfw (inT3_of_isFwSample hp h _) hk, ZMod.intCast_mod, Int.cast_mul, intCast_tritQ, Int.cast_mul]
  have hsum : polyAt (1 : ZMod p.q) p.n (fun k => signedTrit (coeff g k)) = 0 :=
    sum_emod_eq_zero_iff.1 (by rw [sum_signedTrit_fwSample hp h, Int.zero_emod])
  rw [polyAt_congr hscaled, polyAt_const_mul, hsum, mul_zero]

/-- In the BI family it has the value 0 at 1 for its factor x − 1 (R222). -/
theorem polyAt_one_transformG_bi {p : Params} (hp : p.wf = true) (hbi : p.family = .bi) {g : Poly}
    (hg : inT3 p.n g = true) : polyAt (1 : ZMod p.q) p.n (coeff (transformG p g)) = 0 := by
  have hscaled : ∀ k < p.n, (coeff (transformG p g) k : ZMod p.q) =
      (3 * cyc p.n xMinusOne (fun j => tritQ p (coeff g j)) k : ℤ) := fun k hk => by
    rw [coeff_transformG_bi hp hbi hg hk, ZMod.intCast_mod]
  rw [polyAt_congr hscaled, polyAt_const_mul, polyAt_cyc (one_pow _), polyAt_one_xMinusOne (one_lt_n hp), zero_mul, mul_zero]

theorem polyAt_one_transformG {p : Params} (hp : p.wf = true) {seed : List Byte} {f g : Poly} (h : IsSampleFG p seed f g) :
    polyAt (1 : ZMod p.q) p.n (coeff (transformG p g)) = 0 := by
  obtain ⟨-, hg, -⟩ := trits_of_isSampleFG hp h
  unfold IsSampleFG at h
  cases hfam : p.family with
  | fw =>
    rw [hfam] at h
    exact polyAt_one_transformG_fw hp hfam h.2
  | bi => exact polyAt_one_transformG_bi hp hfam hg

/-! ### Products in S_Q -/

/-- MULQ is the product in S_Q as in R_Q. -/
@[simp] theorem element_mulqFn (p : Params) (ring : RingSel) (a b : Poly) :
    element p.q p.n ring (coeff (mulqFn p a b)) = element p.q p.n ring (coeff a) * element p.q p.n ring (coeff b) := by
  rw [mulqFn, element_mulR, element_reduceMod, element_reduceMod]

/-- The reduction into S_Q keeps the element. -/
@[simp] theorem element_mulqPhiFn (p : Params) (a b : Poly) :
    element p.q p.n .sPhi (coeff (mulqPhiFn p a b)) = element p.q p.n .sPhi (coeff a) * element p.q p.n .sPhi (coeff b) :=
  (element_of_normal fun _ hk => coeff_phi hk p.q _).trans (element_mulqFn p .sPhi a b)

/-- What is reduced mod Φ_N is canonical (R121). -/
theorem isCanonical_phi {n : ℕ} {m : ℤ} (hm : 0 < m) (hn : 0 < n) (a : Poly) : IsCanonical n m .sPhi (coeff (phi n m a)) :=
  isCanonical_of_normal hm hn fun _ hk => coeff_phi hk m a

theorem isCanonical_mulqPhiFn {p : Params} (hn : 0 < p.n) (a b : Poly) : IsCanonical p.n p.q .sPhi (coeff (mulqPhiFn p a b)) :=
  isCanonical_phi (Int.ofNat_lt.2 (q_pos p)) hn _

theorem isCanonical_mul3Fn {p : Params} (hn : 0 < p.n) (a b : Poly) : IsCanonical p.n 3 .sPhi (coeff (mul3Fn p a b)) :=
  isCanonical_phi three_pos hn _

/-- What is canonical modulo 3 is in T3. -/
theorem inT3_of_isCanonical {n : ℕ} {ring : RingSel} {a : Poly} (h : IsCanonical n 3 ring (coeff a)) : inT3 n a = true :=
  inT3_iff.2 fun k hk => (h.1 k hk).imp_right Int.le_of_lt_add_one

/-- R223: the stored inverse of f modulo 3 is canonical. -/
theorem isCanonical_of_invF3 {p : Params} (hp : p.wf = true) {f v : Poly} (h : invF3 p f = some v) :
    IsCanonical p.n 3 .sPhi (coeff v) :=
  ((answersInverse_three (one_lt_n hp) .sPhi f).1 v h).2.2

/-- R226: h = v·gp² and invh = v·fq² are inverse in S_Q, as v is the inverse of gp·fq. -/
theorem isInverse_hOf_invHOf {p : Params} (hp : p.wf = true) {f g v : Poly} (h : invGF p f g = some v) :
    IsInverse p.n p.q .sPhi (coeff (hOf p g v)) (coeff (invHOf p f v)) := by
  have hn := n_pos hp
  have hv := (isInverse_iff_element (one_lt_q hp) hn).1 (inverse_of_invQ hp h).1
  rw [isInverse_iff_element (one_lt_q hp) hn, hOf, invHOf]
  rw [element_mulqFn] at hv
  simp only [element_mulqFn, element_mulqPhiFn]
  generalize element p.q p.n .sPhi (coeff (transformG p g)) = G at hv ⊢
  generalize element p.q p.n .sPhi (coeff (z3ToZqPoly p f)) = F at hv ⊢
  generalize element p.q p.n .sPhi (coeff v) = V at hv ⊢
  calc V * G * G * (V * F * F) = (G * F * V) ^ 2 := by ring
    _ = 1 := by rw [hv, one_pow]

/-- R226: the sum of h is 0 mod Q, as gp has the value 0 at 1. -/
theorem sum_hOf_emod {p : Params} (hp : p.wf = true) {seed : List Byte} {f g : Poly} (h : IsSampleFG p seed f g) (v : Poly) :
    (∑ k ∈ Finset.range p.n, coeff (hOf p g v) k) % p.q = 0 := by
  rw [sum_emod_eq_zero_iff, hOf, polyAt_one_mulqFn, polyAt_one_transformG hp h, mul_zero]

/-! ### What DEC recovers (R230) -/

/-- The product c·f of DEC, coefficient by coefficient (R120). -/
theorem mulqFn_z3ToZqPoly {p : Params} {a : Poly} (ha : inT3 p.n a = true) (c : Poly) :
    mulqFn p c (z3ToZqPoly p a) = ofCoeffs p.n fun k => cyc p.n (coeff c) (fun j => tritQ p (coeff a j)) k % p.q :=
  (eq_ofCoeffs_iff (length_mulqFn p _ _)).2 fun k hk => by rw [coeff_mulqFn hk, cyc_z3ToZqPoly_emod ha]

/-- c − LIFT(m) mod Q (R230). -/
def liftRemoved (p : Params) (ct : List Byte) (l : Poly) : Poly :=
  ofCoeffs p.n fun k => (coeff (unpackqFn p .sumZero ct) k - coeff l k) % p.q

/-- R230: r is (c − LIFT(m))·invh in S_Q, where m has a lift. -/
theorem recoverR_eq_some_iff {p : Params} {ct sk : List Byte} {r : Poly} :
    recoverR p ct sk = some r ↔
      ∃ l, liftFn p (recoverM p ct sk) = some l ∧ mulqPhiFn p (liftRemoved p ct l) (skParts p sk).2.2 = r := by
  unfold recoverR
  cases liftFn p (recoverM p ct sk) <;> simp [liftRemoved]

theorem isCanonical_recoverR {p : Params} (hn : 0 < p.n) {ct sk : List Byte} {r : Poly} (h : recoverR p ct sk = some r) :
    IsCanonical p.n p.q .sPhi (coeff r) := by
  obtain ⟨l, -, rfl⟩ := recoverR_eq_some_iff.1 h
  exact isCanonical_mulqPhiFn hn _ _

theorem ringEq_mulqPhiFn_liftRemoved {p : Params} (hp : p.wf = true) (ct : List Byte) (l b : Poly) :
    RingEq p.n p.q .sPhi (coeff (mulqPhiFn p (liftRemoved p ct l) b))
      (cyc p.n (fun k => coeff (unpackqFn p .sumZero ct) k - coeff l k) (coeff b)) := by
  rw [ringEq_iff_element (one_lt_q hp) (n_pos hp), element_mulqPhiFn, element_cyc]
  congr 1
  exact element_congr fun k hk => by rw [liftRemoved, coeff_ofCoeffs _ hk, Int.emod_emod]

theorem chkLast_iff {p : Params} {r : Poly} : chkLast p r = true ↔ coeff r (p.n - 1) ≠ 0 := decide_eq_true_iff

end Sys2Proof.Machine

namespace Sys2Proof.Proofs

open Sys2Proof Sys2Proof.Machine Sys2Proof.Claims

/-- Settles O32: each family's branch of the transform, coefficient by coefficient. -/
theorem transformOfG : Obligations.TransformOfG := fun _ _ hp hg _ hk =>
  ⟨fun hfw => coeff_transformG_fw hfw hg hk, fun hbi => coeff_transformG_bi hp hbi hg hk⟩

/-- Settles O33: h·invh is (gf/gf)² in S_Q, and the sum of h is its value at 1, where the transform of g is 0. -/
theorem keypairKeyProperties : Obligations.KeypairKeyProperties := by
  intro p seed f g v hp hfg hv
  obtain ⟨-, -, hlast⟩ := trits_of_isSampleFG hp hfg
  exact ⟨isInverse_hOf_invHOf hp hv, sum_hOf_emod hp hfg v,
    (isCanonical_mulqPhiFn (n_pos hp) _ _).2 rfl, hlast, fun v3 hv3 => (isCanonical_of_invF3 hp hv3).2 rfl⟩

/-- Settles O36: the message is canonical modulo 3, so it has a lift, and then r is the product of R230. -/
theorem decRecoversByFormula : Obligations.DecRecoversByFormula := by
  intro p ct sk hp c f invf3 invh m
  have hn := n_pos hp
  have hm : recoverM p ct sk = m :=
    congrArg (fun cf => mul3Fn p (rqToS3 p cf) invf3) (mulqFn_z3ToZqPoly (inT3_unpack3Fn p _) c)
  have hcan : IsCanonical p.n 3 .sPhi (coeff m) := isCanonical_mul3Fn hn _ _
  obtain ⟨l, hl⟩ := liftFn_isSome hp (inT3_of_isCanonical hcan)
  have hr : recoverR p ct sk = some (mulqPhiFn p (liftRemoved p ct l) invh) :=
    recoverR_eq_some_iff.2 ⟨l, hm ▸ hl, rfl⟩
  exact ⟨hm, inT3_of_isCanonical hcan, hcan.2 rfl, l, _, hl, hr, isCanonical_recoverR hn hr,
    ringEq_mulqPhiFn_liftRemoved hp ct l invh⟩

/-- Settles O37: a recovered r is canonical in S_Q, so its last coefficient is 0. -/
theorem lastCoefficientCheckNeverFires : Obligations.LastCoefficientCheckNeverFires := by
  intro p r hp
  refine ⟨chkLast_iff, fun ct sk hr => Bool.eq_false_iff.2 fun hchk => chkLast_iff.1 hchk ?_⟩
  exact (isCanonical_recoverR (n_pos hp) hr).2 rfl

end Sys2Proof.Proofs
end

section
/-! SUPPORT. What ENC and DEC leave in their output regions (R227, R236, R237), and the checks of R231 to R235 as the statements
write them. -/

namespace Sys2Proof.Machine

open Sys2Proof.Claims

/-! ### The bytes of an output region -/

/-- In the region last written, a byte is the output's, or the free value of its position. -/
theorem State.byteAt_writeBufDrawn_of_lt (s : State) (off : Nat) {bs : List (Option Byte)} {j : Nat} (hj : j < bs.length) :
    (s.writeBufDrawn off bs).byteAt (off + j) = some ((bs.getD j none).getD (Config.freeByte (s.draws + j))) := by
  rw [State.byteAt_writeBufDrawn, if_pos (by omega), Nat.add_sub_cancel_left, List.getElem?_eq_getElem hj,
    List.getD_eq_getElem _ _ hj, Option.map_some]

theorem State.byteAt_writeBufDrawn_of_outside (s : State) {off : Nat} {bs : List (Option Byte)} {a : Nat}
    (h : ¬ (off ≤ a ∧ a < off + bs.length)) : (s.writeBufDrawn off bs).byteAt a = s.byteAt a := by
  rw [State.byteAt_writeBufDrawn, if_neg h]

theorem getD_known (bs : List Byte) (j : ℕ) : (known bs).getD j none = bs[j]? := by
  rw [known, List.getD_eq_getElem?_getD, List.getElem?_map]
  cases bs[j]? <;> rfl

theorem some_getD_known {bs : List Byte} {j : ℕ} (hj : j < bs.length) (b : Byte) :
    some (((known bs).getD j none).getD b) = bs[j]? := by
  rw [getD_known, List.getElem?_eq_getElem hj, Option.getD_some]

theorem getD_unspecBytes (n j : ℕ) : (unspecBytes n).getD j none = none := by
  obtain hlt | hle := Nat.lt_or_ge j n
  · simp [unspecBytes, hlt]
  · simp [unspecBytes, hle]

/-! ### ENC (R227) -/

theorem coeff_polyB (f : Flight) {n k : ℕ} (hk : k < n) : coeff (f.polyB n) k = (wordN f.inB k : ℤ) := coeff_values hk f.inB

/-- The ciphertext as a polynomial: r·h + LIFT(m) mod Q (R227). -/
def ciphertext (p : Params) (r l : Poly) (pk : List Byte) : Poly :=
  ofCoeffs p.n fun k => (coeff (mulqFn p r (unpackqFn p .sumZero pk)) k + coeff l k) % p.q

theorem encFn_of_lift {p : Params} {m l : Poly} (h : liftFn p m = some l) (r : Poly) (pk : List Byte) :
    encFn p r m pk = known (packqFn p (ciphertext p r l pk)) := by
  simp only [encFn, h, ciphertext]

theorem encFn_of_noLift {p : Params} {m : Poly} (h : liftFn p m = none) (r : Poly) (pk : List Byte) :
    encFn p r m pk = unspecBytes p.ctBytes := by
  simp only [encFn, h]

theorem coeff_ciphertext {p : Params} {k : ℕ} (hk : k < p.n) (f : Flight) (l : Poly) (pk : List Byte) :
    coeff (ciphertext p (f.polyA p.n) l pk) k =
      (cyc p.n (fun i => (wordN f.inA i : ℤ)) (coeff (unpackqFn p .sumZero pk)) k + coeff l k) % p.q := by
  rw [ciphertext, coeff_ofCoeffs _ hk, coeff_mulqFn hk, Int.emod_add_emod,
    Int.add_emod, cyc_emod_congr (fun i hi => by rw [coeff_polyA f hi]) (fun _ _ => rfl), ← Int.add_emod]

/-- ENC completes, and its region holds the bytes of `encFn`, or free values of their positions. -/
theorem exec_enc_writes {s : State} {f : Flight} (hf : s.flight = some f) (a b : SlotIx)
    (hfit : f.boff1.toNat + s.params.ctBytes ≤ s.params.bufBytes) :
    ∃ t, exec (.enc a b) s = .next t ∧ Completed t .ok ∧ t.fail = s.fail ∧ ∀ j < s.params.ctBytes,
      t.byteAt (f.boff1.toNat + j) =
        some (((encFn s.params (f.polyA s.params.n) (f.polyB s.params.n) f.in0).getD j none).getD
          (Config.freeByte (s.draws + j))) := by
  have hexec : exec (.enc a b) s = _ := whileInFlight_of hf _
  refine ⟨_, hexec.trans (if_pos (by rwa [length_encFn])), ⟨rfl, rfl, rfl⟩, rfl, fun j hj => ?_⟩
  rw [State.byteAt_congr (State.retire_buf _ _), State.byteAt_writeBufDrawn_of_lt _ _ (by rwa [length_encFn])]

/-! ### DEC (R231 to R237) -/

theorem mod_two_pow_ne_zero_iff (x pad : ℕ) : x % 2 ^ pad ≠ 0 ↔ ∃ j < pad, x.testBit j := by
  have hbit (j : ℕ) : (x % 2 ^ pad).testBit j = true ↔ j < pad ∧ x.testBit j := by
    rw [Nat.testBit_mod_two_pow, Bool.and_eq_true, decide_eq_true_iff]
  constructor
  · intro h
    obtain ⟨j, hj⟩ := Nat.exists_testBit_of_ne_zero h
    exact ⟨j, (hbit j).1 hj⟩
  · rintro ⟨j, hj⟩ hzero
    have hset := (hbit j).2 hj
    rw [hzero, Nat.zero_testBit] at hset
    cases hset

/-- Check 1 (R231): a padding bit of the last byte is set. -/
theorem chkPad_iff {p : Params} {ct : List Byte} :
    chkPad p ct = true ↔ ∃ j < p.padBits, (byteN ct (p.ctBytes - 1)).testBit j :=
  decide_eq_true_iff.trans (mod_two_pow_ne_zero_iff _ _)

theorem countEq_eq_countOf (n : ℕ) (a : Poly) (x : ℤ) : countEq n a x = countOf n a x :=
  Nat.count_eq_card_filter_range (fun k => coeff a k = x) n

/-- Check 2 (R233), of the FW family only. -/
theorem chkM_iff {p : Params} {m : Poly} :
    chkM p m = true ↔
      p.family = .fw ∧ (countOf p.n m 1 ≠ countOf p.n m 2 ∨ countOf p.n m 1 + countOf p.n m 2 ≠ p.weight) := by
  unfold chkM
  split <;> simp [*, countEq_eq_countOf]

/-- Check 3 (R234): a coefficient of r but the last is outside TQ. -/
theorem chkR_iff {p : Params} {r : Poly} :
    chkR p r = true ↔ ∃ k < p.n - 1, coeff r k ≠ 0 ∧ coeff r k ≠ 1 ∧ coeff r k ≠ (p.q : ℤ) - 1 := by
  simp [chkR, and_assoc]

@[simp] theorem length_tritBytes (p : Params) (c : Poly) : (tritBytes p c).length = p.pack3Bytes := by simp [tritBytes]

theorem getD_pack3Fn_map_some {p : Params} {c : Poly} (hc : inT3 p.n c = true) (j : ℕ) :
    (pack3Fn p (c.map some)).getD j none = (tritBytes p c)[j]? := by
  rw [pack3Fn_map_some hc]
  exact getD_known _ j

/-- The bytes that DEC writes where it recovers r: those of ZQTOZ3(r), then those of m (R236). -/
def recoveredBytes (p : Params) (m r : Poly) : List (Option Byte) :=
  pack3Fn p (convertEach p.n (zqToZ3 p) r) ++ pack3Fn p (m.map some)

theorem length_recoveredBytes (p : Params) (m r : Poly) : (recoveredBytes p m r).length = p.rmBytes := by
  rw [recoveredBytes, List.length_append, length_pack3Fn, length_pack3Fn, Params.rmBytes, two_mul]

theorem getD_recoveredBytes_r {p : Params} {j : ℕ} (hj : j < p.pack3Bytes) (m r : Poly) :
    (recoveredBytes p m r).getD j none = (pack3Fn p (convertEach p.n (zqToZ3 p) r)).getD j none :=
  List.getD_append _ _ _ _ (by rwa [length_pack3Fn])

theorem getD_recoveredBytes_m (p : Params) (m r : Poly) (j : ℕ) :
    (recoveredBytes p m r).getD (p.pack3Bytes + j) none = (pack3Fn p (m.map some)).getD j none := by
  have hlen : (pack3Fn p (convertEach p.n (zqToZ3 p) r)).length = p.pack3Bytes := length_pack3Fn p _
  rw [recoveredBytes, List.getD_append_right _ _ _ _ (by omega), hlen, Nat.add_sub_cancel_left]

/-- The checks of R231 to R235 together (R236). -/
def decFails (p : Params) (ct : List Byte) (m r : Poly) : Bool := chkPad p ct || chkM p m || chkR p r || chkLast p r

theorem decFails_iff {p : Params} {ct : List Byte} {m r : Poly} :
    decFails p ct m r = true ↔
      (∃ j < p.padBits, (byteN ct (p.ctBytes - 1)).testBit j) ∨
      (p.family = .fw ∧ (countOf p.n m 1 ≠ countOf p.n m 2 ∨ countOf p.n m 1 + countOf p.n m 2 ≠ p.weight)) ∨
      (∃ k < p.n - 1, coeff r k ≠ 0 ∧ coeff r k ≠ 1 ∧ coeff r k ≠ (p.q : ℤ) - 1) ∨
      coeff r (p.n - 1) ≠ 0 := by
  rw [decFails, Bool.or_eq_true, Bool.or_eq_true, Bool.or_eq_true, chkPad_iff, chkM_iff, chkR_iff, chkLast_iff, or_assoc,
    or_assoc]

theorem decFn_of_recoverR {p : Params} {ct sk : List Byte} {r : Poly} (h : recoverR p ct sk = some r) :
    decFn p ct sk = some (recoveredBytes p (recoverM p ct sk) r, decFails p ct (recoverM p ct sk) r) := by
  simp only [decFn, h, recoveredBytes, decFails]

/-- DEC completes with the checks in RESULT.FAIL, and its region holds the recovered bytes, or free values of their
positions. -/
theorem exec_dec_writes {s : State} {f : Flight} (hf : s.flight = some f) {r : Poly}
    (hr : recoverR s.params f.in0 f.in1 = some r) (hfit : f.boff2.toNat + s.params.rmBytes ≤ s.params.bufBytes) :
    ∃ t, exec .dec s = .next t ∧ Completed t .ok ∧
      t.fail = decFails s.params f.in0 (recoverM s.params f.in0 f.in1) r ∧
      ∀ j < s.params.rmBytes, t.byteAt (f.boff2.toNat + j) =
        some (((recoveredBytes s.params (recoverM s.params f.in0 f.in1) r).getD j none).getD
          (Config.freeByte (s.draws + j))) := by
  obtain ⟨-, -, -, hexec⟩ := completesBuf_dec f (decFn_of_recoverR hr)
  refine ⟨_, (hexec s rfl hf).trans (if_pos ?_), ⟨rfl, rfl, rfl⟩, rfl, fun j hj => ?_⟩
  · simpa [placesFit, Outputs.places, length_recoveredBytes] using hfit
  · rw [State.byteAt_finishBuf]
    exact State.byteAt_writeBufDrawn_of_lt _ _ (by rwa [length_recoveredBytes])

/-- In a build of the spec DEC recovers an r (R232). -/
theorem exists_recoverR {p : Params} (hp : p.wf = true) (ct sk : List Byte) : ∃ r, recoverR p ct sk = some r := by
  obtain ⟨l, hl⟩ := liftFn_isSome hp (inT3_recoverM p ct sk)
  exact ⟨_, recoverR_eq_some_iff.2 ⟨l, hl, rfl⟩⟩

end Sys2Proof.Machine

namespace Sys2Proof.Proofs

open Sys2Proof Sys2Proof.Machine Sys2Proof.Claims

/-- Settles O34: the lift of m decides whether the bytes are those of the ciphertext or free. -/
theorem encWritesCiphertext : Obligations.EncWritesCiphertext := by
  intro s f a b _ hf hfit
  dsimp only
  obtain ⟨t, ht, hdone, hfail, hbytes⟩ := exec_enc_writes hf a b hfit
  refine ⟨t, ht, hdone, hfail, fun ⟨k, hk, hout⟩ j hj => ?_, fun l hl => ⟨_, fun k hk => coeff_ciphertext hk f l f.in0,
    fun j hj => ?_⟩⟩
  · have hdom : ¬ inT3 s.params.n (f.polyB s.params.n) = true := fun hT => by
      have hle := (inT3_iff.1 hT k hk).2
      rw [coeff_polyB f hk] at hle
      omega
    rw [hbytes j hj, encFn_of_noLift (liftFn_of_not_inT3 hdom), getD_unspecBytes, Option.getD_none]
  · rw [hbytes j hj, Flight.polyB, encFn_of_lift hl]
    exact some_getD_known (by rwa [length_packqFn]) _

/-- Settles O35: the four checks as they are spelled out, and m in T3, so that its bytes are all exact. -/
theorem decWritesMessageAndFail : Obligations.DecWritesMessageAndFail := by
  intro s f hp hf hfit
  dsimp only
  obtain ⟨r, hr⟩ := exists_recoverR hp f.in0 f.in1
  obtain ⟨t, ht, hdone, hfail, hbytes⟩ := exec_dec_writes hf hr hfit
  have hrm : s.params.rmBytes = s.params.pack3Bytes + s.params.pack3Bytes := two_mul _
  refine ⟨t, r, ht, hdone, hr, by rw [hfail]; exact decFails_iff, fun j hj => ?_, fun j hj => ?_⟩
  · rw [Nat.add_assoc, hbytes _ (by omega), getD_recoveredBytes_m, getD_pack3Fn_map_some (inT3_recoverM _ _ _),
      List.getElem?_eq_getElem (by rwa [length_tritBytes]), Option.getD_some]
  · rw [hbytes j (by omega), getD_recoveredBytes_r hj]

end Sys2Proof.Proofs
end

section
/-! SUPPORT. KEYPAIR (R221 to R225): when its samplers exhaust, the parts of the keys with the inverses they depend on, and what
two regions, the second stored over the first, leave in BUF. -/

namespace Sys2Proof.Machine

open Sys2Proof.Claims

/-! ### The samples of the seed (R221) -/

/-- The answer of the sampler of f. -/
def sampleF (p : Params) (seed : List Byte) : Option Poly :=
  match p.family with
  | .fw => sampIidFn p (seedF p seed)
  | .bi => sampBiFn p (seedF p seed)

/-- The answer of the sampler of g. -/
def sampleG (p : Params) (seed : List Byte) : Option Poly :=
  match p.family with
  | .fw => sampFwFn p (seedG p seed)
  | .bi => sampBiFn p (seedG p seed)

theorem sampleFG_eq_map₂ (p : Params) (seed : List Byte) :
    sampleFG p seed = Option.map₂ Prod.mk (sampleF p seed) (sampleG p seed) := by
  unfold sampleFG sampleF sampleG seedG
  cases p.family with
  | fw =>
    rw [if_pos rfl]
    dsimp only [seedF]
    cases sampIidFn p (seed.take p.iidBytes) <;> cases sampFwFn p ((seed.drop p.iidBytes).take p.ftBytes) <;> rfl
  | bi =>
    rw [if_neg (by decide)]
    dsimp only [seedF]
    cases sampBiFn p (seed.take p.iidBytes) <;> cases sampBiFn p ((seed.drop p.iidBytes).take p.iidBytes) <;> rfl

theorem isSampleFG_iff {p : Params} (hp : p.wf = true) {seed : List Byte} {f g : Poly} :
    IsSampleFG p seed f g ↔ sampleF p seed = some f ∧ sampleG p seed = some g := by
  have hn := n_pos hp
  unfold IsSampleFG sampleF sampleG
  cases p.family with
  | fw => rw [sampIidFn_eq_iidSample hn, sampFwFn_eq_some_iff hp]
  | bi => rw [sampBiFn_eq_biSample hn, sampBiFn_eq_biSample hn]

theorem seedExhausts_iff {p : Params} (hp : p.wf = true) {seed : List Byte} :
    SeedExhausts p seed ↔ sampleF p seed = none ∨ sampleG p seed = none := by
  have hn := n_pos hp
  unfold SeedExhausts sampleF sampleG
  cases p.family with
  | fw => rw [sampIidFn_eq_iidSample hn, sampFwFn_eq_none_iff hp]
  | bi => rw [sampBiFn_eq_biSample hn, sampBiFn_eq_biSample hn]

theorem sampleFG_eq_some_iff {p : Params} (hp : p.wf = true) {seed : List Byte} {f g : Poly} :
    sampleFG p seed = some (f, g) ↔ IsSampleFG p seed f g := by
  rw [sampleFG_eq_map₂, Option.map₂_eq_some_iff, isSampleFG_iff hp]
  simp

theorem sampleFG_eq_none_iff {p : Params} (hp : p.wf = true) {seed : List Byte} :
    sampleFG p seed = none ↔ SeedExhausts p seed := by
  rw [sampleFG_eq_map₂, Option.map₂_eq_none_iff, seedExhausts_iff hp]

/-- A seed exhausts a sampler exactly when it has no f and g. -/
theorem seedExhausts_iff_not_isSampleFG {p : Params} (hp : p.wf = true) {seed : List Byte} :
    SeedExhausts p seed ↔ ¬ ∃ f g, IsSampleFG p seed f g := by
  simp only [← sampleFG_eq_none_iff hp, Option.eq_none_iff_forall_ne_some, ← sampleFG_eq_some_iff hp, Prod.forall,
    not_exists, ne_eq]

/-! ### The parts of the keys (R224, R225) -/

/-- The bytes of a part that is UNSPEC as a whole where the inverse it depends on does not exist (R225). -/
def bytesOrUnspec (n : ℕ) : Option (List Byte) → List (Option Byte)
  | some bs => known bs
  | none => unspecBytes n

/-- packq(h). -/
def hBytes (p : Params) (f g : Poly) : Option (List Byte) := (invGF p f g).map fun v => packqFn p (hOf p g v)

/-- pack3(invf3). -/
def invF3Bytes (p : Params) (f : Poly) : Option (List Byte) := (invF3 p f).map (tritBytes p)

/-- packq(invh). -/
def invHBytes (p : Params) (f g : Poly) : Option (List Byte) := (invGF p f g).map fun v => packqFn p (invHOf p f v)

/-- The three parts of sk (R224). -/
def skBytesOf (p : Params) (f g : Poly) : List (Option Byte) :=
  bytesOrUnspec p.pack3Bytes (some (tritBytes p f)) ++ bytesOrUnspec p.pack3Bytes (invF3Bytes p f) ++
    bytesOrUnspec p.packqBytes (invHBytes p f g)

/-- The keys by their parts: both f and its inverse modulo 3 are in T3, so that their bytes are known. -/
theorem keysOf_eq {p : Params} (hp : p.wf = true) {f : Poly} (hf : inT3 p.n f = true) (g : Poly) :
    keysOf p f g = (bytesOrUnspec p.pkBytes (hBytes p f g), skBytesOf p f g) := by
  unfold keysOf skBytesOf hBytes invHBytes invF3Bytes
  rw [pack3Fn_map_some hf]
  cases h3 : invF3 p f with
  | none => cases invGF p f g <;> rfl
  | some v =>
    have hv : pack3Fn p (v.map some) = known (tritBytes p v) :=
      pack3Fn_map_some (inT3_of_isCanonical (isCanonical_of_invF3 hp h3))
    dsimp only
    rw [hv]
    cases invGF p f g <;> rfl

/-- A part has its size whether or not it is known. -/
theorem length_bytesOrUnspec_map {n : ℕ} {g : Poly → List Byte} (h : ∀ v, (g v).length = n) (o : Option Poly) :
    (bytesOrUnspec n (o.map g)).length = n := by
  cases o with
  | none => exact length_unspecBytes n
  | some v => exact (length_known _).trans (h v)

theorem length_fPart (p : Params) (f : Poly) : (bytesOrUnspec p.pack3Bytes (some (tritBytes p f))).length = p.pack3Bytes :=
  length_bytesOrUnspec_map (length_tritBytes p) (some f)

theorem length_invF3Part (p : Params) (f : Poly) : (bytesOrUnspec p.pack3Bytes (invF3Bytes p f)).length = p.pack3Bytes :=
  length_bytesOrUnspec_map (length_tritBytes p) _

theorem length_skBytesOf (p : Params) (f g : Poly) : (skBytesOf p f g).length = p.skBytes := by
  have hinvH : (bytesOrUnspec p.packqBytes (invHBytes p f g)).length = p.packqBytes :=
    length_bytesOrUnspec_map (fun _ => length_packqFn p _) _
  rw [skBytesOf, List.length_append, List.length_append, length_fPart, length_invF3Part, hinvH, Params.skBytes, two_mul]

/-! ### What the two regions hold (R225) -/

/-- BUF[a] holds an output byte: the byte itself, or a free value where it is UNSPEC. -/
def HoldsOutput (t : State) (a : ℕ) : Option Byte → Prop
  | some b => t.byteAt a = some b
  | none => HoldsFree t a

theorem holdsOutput_of_byteAt {t : State} {a i : ℕ} {o : Option Byte} (h : t.byteAt a = some (o.getD (Config.freeByte i))) :
    HoldsOutput t a o := by
  cases o with
  | none => exact ⟨i, h⟩
  | some b => exact h

theorem HoldsOutput.byteAt_eq {t : State} {a n j : ℕ} {part : Option (List Byte)}
    (h : HoldsOutput t a ((bytesOrUnspec n part).getD j none)) {bs : List Byte} (hpart : part = some bs)
    (hj : j < bs.length) : t.byteAt a = bs[j]? := by
  rw [hpart, bytesOrUnspec, getD_known] at h
  rw [List.getElem?_eq_getElem hj] at h ⊢
  exact h

theorem HoldsOutput.holdsFree {t : State} {a n j : ℕ} {part : Option (List Byte)}
    (h : HoldsOutput t a ((bytesOrUnspec n part).getD j none)) (hpart : part = none) : HoldsFree t a := by
  rw [hpart, bytesOrUnspec, getD_unspecBytes] at h
  exact h

/-- KEYPAIR has completed with the code e; sk is in its region, and pk where sk does not cover it. -/
structure StoresKeys (s t : State) (fl : Flight) (pk sk : List (Option Byte)) (e : ErrCode) : Prop where
  answers : exec .keypair s = .next t
  completed : Completed t e
  fail : t.fail = s.fail
  sk : ∀ j < s.params.skBytes, HoldsOutput t (fl.boff2.toNat + j) (sk.getD j none)
  pk : ∀ j < s.params.pkBytes,
    ¬ (fl.boff2.toNat ≤ fl.boff1.toNat + j ∧ fl.boff1.toNat + j < fl.boff2.toNat + s.params.skBytes) →
      HoldsOutput t (fl.boff1.toNat + j) (pk.getD j none)

/-- The second of two regions is stored over the first. -/
theorem exists_storesKeys {s : State} {fl : Flight} {pk sk : List (Option Byte)} {e : ErrCode}
    (hexec : exec .keypair s = storeBytes s fl.boff1 pk fun t => storeBytes t fl.boff2 sk fun u => .next (u.retire e))
    (hpk : pk.length = s.params.pkBytes) (hsk : sk.length = s.params.skBytes)
    (hfit1 : fl.boff1.toNat + s.params.pkBytes ≤ s.params.bufBytes)
    (hfit2 : fl.boff2.toNat + s.params.skBytes ≤ s.params.bufBytes) : ∃ t, StoresKeys s t fl pk sk e := by
  rw [← hpk] at hfit1
  rw [← hsk] at hfit2
  refine ⟨_, hexec.trans ((if_pos hfit1).trans (if_pos hfit2)), ⟨rfl, rfl, rfl⟩, rfl, fun j hj => ?_, fun j hj hout => ?_⟩
  · rw [← hsk] at hj
    exact holdsOutput_of_byteAt (State.byteAt_writeBufDrawn_of_lt _ _ hj)
  · rw [← hpk] at hj
    rw [← hsk] at hout
    exact holdsOutput_of_byteAt ((State.byteAt_writeBufDrawn_of_outside _ hout).trans
      (State.byteAt_writeBufDrawn_of_lt _ _ hj))

theorem exists_storesKeys_of_exhausted {s : State} {fl : Flight} (hf : s.flight = some fl)
    (hnone : sampleFG s.params fl.in0 = none) (hfit1 : fl.boff1.toNat + s.params.pkBytes ≤ s.params.bufBytes)
    (hfit2 : fl.boff2.toNat + s.params.skBytes ≤ s.params.bufBytes) :
    ∃ t, StoresKeys s t fl (unspecBytes s.params.pkBytes) (unspecBytes s.params.skBytes) .sampleExhausted :=
  exists_storesKeys (by simp only [exec, execKeypair, whileInFlight_of hf, keypairFn, hnone]) (length_unspecBytes _)
    (length_unspecBytes _) hfit1 hfit2

theorem exists_storesKeys_of_sample {s : State} {fl : Flight} (hp : s.params.wf = true) (hf : s.flight = some fl) {f g : Poly}
    (hsome : sampleFG s.params fl.in0 = some (f, g)) (hfit1 : fl.boff1.toNat + s.params.pkBytes ≤ s.params.bufBytes)
    (hfit2 : fl.boff2.toNat + s.params.skBytes ≤ s.params.bufBytes) :
    ∃ t, StoresKeys s t fl (bytesOrUnspec s.params.pkBytes (hBytes s.params f g)) (skBytesOf s.params f g) .ok := by
  obtain ⟨htrits, -⟩ := trits_of_isSampleFG hp ((sampleFG_eq_some_iff hp).1 hsome)
  exact exists_storesKeys (by simp only [exec, execKeypair, whileInFlight_of hf, keypairFn, hsome, keysOf_eq hp htrits])
    (length_bytesOrUnspec_map (fun _ => length_packqFn _ _) _) (length_skBytesOf _ f g) hfit1 hfit2

/-- Where the samplers exhaust every byte of both regions is free, that of sk where they overlap. -/
theorem StoresKeys.free {s t : State} {fl : Flight} {e : ErrCode}
    (h : StoresKeys s t fl (unspecBytes s.params.pkBytes) (unspecBytes s.params.skBytes) e) :
    (∀ j < s.params.pkBytes, HoldsFree t (fl.boff1.toNat + j)) ∧
      ∀ j < s.params.skBytes, HoldsFree t (fl.boff2.toNat + j) := by
  have hsk : ∀ j < s.params.skBytes, HoldsFree t (fl.boff2.toNat + j) := fun j hj => (h.sk j hj).holdsFree (part := none) rfl
  refine ⟨fun j hj => ?_, hsk⟩
  by_cases hin : fl.boff2.toNat ≤ fl.boff1.toNat + j ∧ fl.boff1.toNat + j < fl.boff2.toNat + s.params.skBytes
  · have hover := hsk (fl.boff1.toNat + j - fl.boff2.toNat) (by omega)
    rwa [Nat.add_sub_cancel' hin.1] at hover
  · exact (h.pk j hj hin).holdsFree (part := none) rfl

/-- The bytes of three parts, the first two of the same length. -/
theorem getD_three_parts {α : Type*} {n : ℕ} {a b c : List α} (ha : a.length = n) (hb : b.length = n) (d : α) :
    (∀ j < n, (a ++ b ++ c).getD j d = a.getD j d) ∧ (∀ j < n, (a ++ b ++ c).getD (n + j) d = b.getD j d) ∧
      ∀ j, (a ++ b ++ c).getD (2 * n + j) d = c.getD j d := by
  have hab : (a ++ b).length = 2 * n := by rw [List.length_append, ha, hb, two_mul]
  refine ⟨fun j hj => ?_, fun j hj => ?_, fun j => ?_⟩
  · rw [List.getD_append _ _ _ _ (by omega), List.getD_append _ _ _ _ (by omega)]
  · rw [List.getD_append _ _ _ _ (by omega), List.getD_append_right _ _ _ _ (by omega), ha, Nat.add_sub_cancel_left]
  · rw [List.getD_append_right _ _ _ _ (by omega), hab, Nat.add_sub_cancel_left]

/-- Where the three parts of sk are (R224). -/
theorem StoresKeys.skParts {s t : State} {fl : Flight} {pk : List (Option Byte)} {e : ErrCode} {f g : Poly}
    (h : StoresKeys s t fl pk (skBytesOf s.params f g) e) :
    (∀ j < s.params.pack3Bytes, HoldsOutput t (fl.boff2.toNat + j)
      ((bytesOrUnspec s.params.pack3Bytes (some (tritBytes s.params f))).getD j none)) ∧
    (∀ j < s.params.pack3Bytes, HoldsOutput t (fl.boff2.toNat + s.params.pack3Bytes + j)
      ((bytesOrUnspec s.params.pack3Bytes (invF3Bytes s.params f)).getD j none)) ∧
    (∀ j < s.params.packqBytes, HoldsOutput t (fl.boff2.toNat + 2 * s.params.pack3Bytes + j)
      ((bytesOrUnspec s.params.packqBytes (invHBytes s.params f g)).getD j none)) := by
  have hsize : s.params.skBytes = 2 * s.params.pack3Bytes + s.params.packqBytes := rfl
  obtain ⟨hfirst, hsecond, hthird⟩ := getD_three_parts (c := bytesOrUnspec s.params.packqBytes (invHBytes s.params f g))
    (length_fPart s.params f) (length_invF3Part s.params f) none
  refine ⟨fun j hj => ?_, fun j hj => ?_, fun j hj => ?_⟩
  · rw [← hfirst j hj]
    exact h.sk j (by omega)
  · rw [← hsecond j hj, Nat.add_assoc]
    exact h.sk _ (by omega)
  · rw [← hthird j, Nat.add_assoc]
    exact h.sk _ (by omega)

end Sys2Proof.Machine

namespace Sys2Proof.Proofs

open Sys2Proof Sys2Proof.Machine Sys2Proof.Claims

/-- Settles O31: the seed's samples decide between free values and the keys, and the inverses between the known and the free
parts of the keys. -/
theorem keypairWritesKeys : Obligations.KeypairWritesKeys := by
  intro s fl hp hf hfit1 hfit2
  dsimp only
  cases hfg : sampleFG s.params fl.in0 with
  | none =>
    have hex := (sampleFG_eq_none_iff hp).1 hfg
    have hno := (seedExhausts_iff_not_isSampleFG hp).1 hex
    obtain ⟨t, ht⟩ := exists_storesKeys_of_exhausted hf hfg hfit1 hfit2
    exact ⟨t, ht.answers, ht.fail, iff_of_true hex hno, fun _ => ⟨ht.completed, ht.free⟩,
      fun f g h => absurd ⟨f, g, h⟩ hno⟩
  | some sample =>
    obtain ⟨f, g⟩ := sample
    have hsample := (sampleFG_eq_some_iff hp).1 hfg
    obtain ⟨htrits, -⟩ := trits_of_isSampleFG hp hsample
    obtain ⟨t, ht⟩ := exists_storesKeys_of_sample hp hf hfg hfit1 hfit2
    refine ⟨t, ht.answers, ht.fail, seedExhausts_iff_not_isSampleFG hp,
      fun hex => absurd ⟨f, g, hsample⟩ ((seedExhausts_iff_not_isSampleFG hp).1 hex), fun f' g' h => ?_⟩
    rw [← sampleFG_eq_some_iff hp, hfg] at h
    cases h
    obtain ⟨hskF, hskInvF3, hskInvH⟩ := ht.skParts
    refine ⟨ht.completed, fun j hj => ?_, fun v hv j hj => ?_, fun hnone j hj => ?_,
      fun v hv => ⟨fun j hj => ?_, fun j hj hout => ?_⟩, fun hnone => ⟨fun j hj => ?_, fun j hj hout => ?_⟩⟩
    · rw [getD_pack3Fn_map_some htrits]
      exact (hskF j hj).byteAt_eq rfl (by rwa [length_tritBytes])
    · rw [getD_pack3Fn_map_some (inT3_of_isCanonical (isCanonical_of_invF3 hp hv))]
      exact (hskInvF3 j hj).byteAt_eq (Option.map_eq_some_iff.2 ⟨v, hv, rfl⟩) (by rwa [length_tritBytes])
    · exact (hskInvF3 j hj).holdsFree (Option.map_eq_none_iff.2 hnone)
    · exact (hskInvH j hj).byteAt_eq (Option.map_eq_some_iff.2 ⟨v, hv, rfl⟩) (by rwa [length_packqFn])
    · exact (ht.pk j hj hout).byteAt_eq (Option.map_eq_some_iff.2 ⟨v, hv, rfl⟩) (by rwa [length_packqFn])
    · exact (hskInvH j hj).holdsFree (Option.map_eq_none_iff.2 hnone)
    · exact (ht.pk j hj hout).holdsFree (Option.map_eq_none_iff.2 hnone)

end Sys2Proof.Proofs
end

section
/-! SUPPORT. The answer of a submission by the first check of R263 that fails, and what the latch of an accepted command holds
(R36). -/

namespace Sys2Proof.Machine

open Sys2Proof.Claims

/-! ### The first failing check (R263, R264) -/

theorem row_ne_illegalOpcode (w : Bus) (d a b m : Bool) (i : Instr) : row w d a b m i ≠ .error .illegalOpcode := by
  unfold row
  split <;> simp

/-- Check 1 of R263: the decoder answers ILLEGAL_OPCODE exactly when OP has no row. -/
theorem decode_illegalOpcode_iff {w : Bus} : decode w = .error .illegalOpcode ↔ bits w 0 8 ∉ opRows.map (·.1) := by
  rw [← toNat_extractLsb'_eq_bits, ← fieldOp]
  unfold decode
  split
  case h_21 =>
    simp only [opRows, List.map_cons, List.map_nil, List.mem_cons, List.not_mem_nil, true_iff]
    tauto
  all_goals
    next hop =>
      rw [hop]
      exact iff_of_false (row_ne_illegalOpcode w _ _ _ _ _) (by decide)

/-- Check 2 of R263: a word that has a row's OP and breaks its reserved fields decodes to no command, since OP alone selects
the row. -/
theorem decode_reservedField {w : Bus} {d a b m : Bool} (hrow : (bits w 0 8, d, a, b, m) ∈ opRows)
    (hbad : reservedBad w d a b m) : decode w = .error .reservedField := by
  cases hdec : decode w with
  | ok i =>
    have hfit : FitsRow w (opRow i) := (fitsRow_iff_decode (opRow_mem_opRows i)).2 ⟨i, hdec, rfl⟩
    have hsame : opRow i = (bits w 0 8, d, a, b, m) :=
      eq_of_mem_opRows _ (opRow_mem_opRows i) _ hrow hfit.1.symm
    rw [hsame] at hfit
    exact absurd hbad hfit.2
  | error e =>
    cases e with
    | illegalOpcode => exact absurd (List.mem_map_of_mem hrow) (decode_illegalOpcode_iff.1 hdec)
    | reservedField => rfl

theorem checkCommand_of_decode_error {w : Bus} {e : DecodeError} (h : decode w = .error e) (s : State) :
    checkCommand s w = .error (errOfDecode e) := by
  simp only [checkCommand, h]

theorem checkCommand_badSlot {w : Bus} {i : Instr} (hdec : decode w = .ok i) (hwf : i.wf = false) (s : State) :
    checkCommand s w = .error .badSlot := by
  simp [checkCommand, hdec, hwf]

theorem checkCommand_badRange {s : State} {w : Bus} {i : Instr} (hdec : decode w = .ok i) (hwf : i.wf = true)
    (hrange : rangesOk s i = false) : checkCommand s w = .error .badRange := by
  simp [checkCommand, hdec, hwf, hrange]

/-- A bus write to CMD of a word whose first failing check has code e is rejected with e (R262). -/
theorem hostWrite_cmd_rejected {s : State} {w : Bus} {e : ErrCode} (hidle : s.flight = none)
    (h : checkCommand s w = .error e) : hostWrite s 0x020 w = .next (rejected s w e) := by
  rw [hostWrite_cmd_of_idle hidle, submit, h]
  rfl

/-! ### The latch (R36) -/

theorem BoffReg.index_injective : Function.Injective BoffReg.index
  | .b0, .b0, _ | .b1, .b1, _ | .b2, .b2, _ => rfl

/-- What the snapshot of a used source slot holds. -/
theorem captureSlot_eq_some {s : State} {use : Bool} {x : SlotIx} {ws : List Word}
    (h : captureSlot s (if use then some x else none) = some ws) (huse : use = true) :
    ws.length = s.params.n ∧ ∀ k < s.params.n, ws[k]? = s.coeffAt x k := by
  rw [if_pos huse] at h
  exact readSlot_eq_some h

/-- What the snapshot of an input region holds. -/
theorem captureRegion_eq_some {s : State} {i : Instr} {r : BoffReg} {g : Region} {bs : List Byte}
    (hg : inputRegion s.params i r = some g) (h : captureRegion s i r = some bs) :
    bs.length = g.len ∧ ∀ j < g.len, bs[j]? = s.byteAt ((s.boff r).toNat + j) := by
  simp only [captureRegion, hg] at h
  obtain ⟨hlen, hread⟩ := Memory.readList_eq_some.1 h
  exact ⟨hlen, fun j hj => (hread j hj).symm⟩

/-- The snapshot at an offset register holds the bytes of the row's input region there. -/
theorem RowCommand.captured_region {w : Bus} {d a b : Bool} {i : Instr} (hi : RowCommand w d a b i) {s : State}
    {r : BoffReg} {bs : List Byte} (h : captureRegion s i r = some bs) {g : ℕ × ℕ}
    (hg : g ∈ opInputs s.params (bits w 0 8)) (hr : g.1 = r.index) :
    bs.length = g.2 ∧ ∀ j < g.2, bs[j]? = s.byteAt ((s.boff r).toNat + j) := by
  rw [← hi.inputs_eq, List.mem_map] at hg
  obtain ⟨g', hg', rfl⟩ := hg
  obtain ⟨hmem, hin⟩ := List.mem_filter.1 hg'
  obtain rfl : g'.reg = r := BoffReg.index_injective hr
  exact captureRegion_eq_some (inputRegion_of_mem g' hmem (by simpa using hin)).1 h

/-- A word that passes the checks and whose input set is written is accepted with the snapshots of its row's operands
(R261). -/
theorem submit_of_passes {s : State} {w : Bus} {a b : Bool} (hpass : Passes s w a b) (hslots : SlotsWritten s w a b)
    (hregions : RegionsWritten s w) :
    ∃ d i inA inB in0 in1, RowCommand w d a b i ∧ captureSlot s (srcSlotA i) = some inA ∧
      captureSlot s (srcSlotB i) = some inB ∧ captureRegion s i .b0 = some in0 ∧ captureRegion s i .b1 = some in1 ∧
      submit s w = .next (s.accept (s.latch w inA inB in0 in1)) := by
  obtain ⟨d, i, hrow, hi⟩ := checkCommand_of_passes hpass
  obtain ⟨-, hwf, -⟩ := checkCommand_ok hi
  obtain ⟨hsA, hsB⟩ := (hrow.captureSlots_isSome hwf s).2 hslots
  obtain ⟨hs0, hs1⟩ := (hrow.captureRegions_isSome s).2 hregions
  obtain ⟨inA, hA⟩ := Option.isSome_iff_exists.1 hsA
  obtain ⟨inB, hB⟩ := Option.isSome_iff_exists.1 hsB
  obtain ⟨in0, h0⟩ := Option.isSome_iff_exists.1 hs0
  obtain ⟨in1, h1⟩ := Option.isSome_iff_exists.1 hs1
  exact ⟨d, i, inA, inB, in0, in1, hrow, hA, hB, h0, h1, submit_of_written hi hA hB h0 h1⟩

end Sys2Proof.Machine

namespace Sys2Proof.Proofs

open Sys2Proof Sys2Proof.Machine Sys2Proof.Claims

/-- Settles O4: each check of R263 on the bits is the model's check on the command, in the order of R264. -/
theorem submissionRejectsByPriority : Obligations.SubmissionRejectsByPriority := by
  intro s w hidle
  refine ⟨fun hop => ?_, ?_⟩
  · exact hostWrite_cmd_rejected hidle (checkCommand_of_decode_error (decode_illegalOpcode_iff.2 hop) s)
  rintro _ d a b m hrow rfl
  refine ⟨fun hbad => ?_, fun hclear hslot => ?_, fun hclear hslot hrange => ?_⟩
  · exact hostWrite_cmd_rejected hidle (checkCommand_of_decode_error (decode_reservedField hrow hbad) s)
  all_goals obtain ⟨i, hi⟩ := rowCommand_of_opRow hrow hclear
  · have hwf : i.wf = false := Bool.eq_false_iff.2 fun h => hi.wf_iff.1 h hslot
    exact hostWrite_cmd_rejected hidle (checkCommand_badSlot hi.decodes hwf s)
  · have hout : rangesOk s i = false := Bool.eq_false_iff.2 fun h => (hi.rangesOk_iff s).1 h hrange
    exact hostWrite_cmd_rejected hidle (checkCommand_badRange hi.decodes (hi.wf_iff.2 hslot) hout)

/-- Settles O5: the latch holds the snapshots of the operands of the word's row. -/
theorem acceptanceLatchesInputs : Obligations.AcceptanceLatchesInputs := by
  intro s w a b hidle hpass hslots hregions
  obtain ⟨d, i, inA, inB, in0, in1, hrow, hA, hB, h0, h1, hsubmit⟩ := submit_of_passes hpass hslots hregions
  rw [hrow.srcA, ← slotFieldA_eq] at hA
  rw [hrow.srcB, ← slotFieldB_eq] at hB
  exact ⟨s.latch w inA inB in0 in1, (hostWrite_cmd_of_idle hidle w).trans hsubmit, rfl, rfl, rfl, rfl,
    captureSlot_eq_some hA, captureSlot_eq_some hB,
    fun g hg => ⟨hrow.captured_region h0 hg, hrow.captured_region h1 hg⟩⟩

end Sys2Proof.Proofs
end

section
/-! SUPPORT. The host's transactions while a command is in flight (R266, R311). -/

namespace Sys2Proof.Machine

/-- The slot and BUF windows of R61. -/
theorem target_window {off : Offset} (h : 0x10000 ≤ off.toNat ∧ off.toNat < 0x30000) :
    (∃ d k, target off = .coefficient d k) ∨ ∃ a, target off = .bytes a := by
  obtain ⟨hlow, hhigh⟩ := h
  unfold target
  dsimp only
  rw [if_neg (by omega), if_neg (by omega)]
  split
  · exact .inl ⟨_, _, rfl⟩
  · exact .inr ⟨_, rfl⟩

theorem busy_of_flight {s : State} {f : Flight} (h : s.flight = some f) : s.busy = true := by
  rw [State.busy, h]
  rfl

/-- While a command is in flight, both transactions fault on a window (R311). -/
theorem host_windowWhileBusy {s : State} {off : Offset} (hbusy : s.busy = true)
    (h : 0x10000 ≤ off.toNat ∧ off.toNat < 0x30000) (w : Bus) :
    hostRead s off = .fault .windowWhileBusy ∧ hostWrite s off w = .fault .windowWhileBusy := by
  obtain ⟨d, k, ht⟩ | ⟨a, ht⟩ := target_window h
  · simp [hostRead, hostWrite, ht, hbusy]
  · simp [hostRead, hostWrite, ht, hbusy]

/-- A write to CMD while a command is in flight sets HAZ (R266). -/
theorem writeCmd_of_busy {s : State} (h : s.busy = true) (w : Bus) : writeCmd s w = .next { s with haz := true } := if_pos h

/-- A write to CTRL without SRST keeps the command in flight (R31). -/
theorem writeCtrl_flight {s : State} {w : Bus} (h : w.getLsbD 1 = false) : (writeCtrl s w).flight = s.flight := by
  rw [writeCtrl, h]
  rfl

/-- A register write while a command is in flight answers, and keeps the command unless it is a soft reset. -/
theorem writeRegister_of_flight {s : State} {f : Flight} (hf : s.flight = some f) (o : Nat) (w : Bus) :
    ∃ t, writeRegister s o w = .next t ∧ (t.flight = some f ∨ (o = 0x28 ∧ w.getLsbD 1 = true)) := by
  unfold writeRegister
  split
  · exact ⟨_, writeCmd_of_busy (busy_of_flight hf) w, .inl hf⟩
  case h_3 =>
    refine ⟨_, rfl, ?_⟩
    cases hsrst : w.getLsbD 1 with
    | false => exact .inl ((writeCtrl_flight hsrst).trans hf)
    | true => exact .inr ⟨rfl, rfl⟩
  all_goals exact ⟨_, rfl, .inl hf⟩

end Sys2Proof.Machine

namespace Sys2Proof.Proofs

open Sys2Proof Sys2Proof.Machine Sys2Proof.Claims

/-- Settles O49: by the part of the address map that the offset lies in. -/
theorem accessesWhileBusy : Obligations.AccessesWhileBusy := by
  intro s f off w hf
  have hbusy := busy_of_flight hf
  refine ⟨fun hwin => host_windowWhileBusy hbusy hwin w, ?_, fun hreg => ?_⟩
  · rw [hostWrite_register 0x20 rfl]
    exact writeCmd_of_busy hbusy w
  · have htarget : target off = .register off.toNat := if_pos hreg
    obtain ⟨t, ht, hkeep⟩ := writeRegister_of_flight hf off.toNat w
    refine ⟨⟨_, hostRead_register off.toNat htarget⟩, t, (hostWrite_register off.toNat htarget).trans ht, ?_⟩
    exact hkeep.imp_right fun ⟨hctrl, hsrst⟩ => ⟨BitVec.eq_of_toNat_eq hctrl, hsrst⟩

end Sys2Proof.Proofs
end

section
/-! SUPPORT. What a soft and a hardware reset leave (R300, R302, R303): slots and BUF as they were when nothing is in flight, an
aborted command's destination slot or output regions spoiled otherwise, and the same state whichever input asks for the reset. -/

namespace Sys2Proof.Machine

open Sys2Proof.Claims

/-! ### What an abort spoils (R303) -/

/-- The abort of a command with a destination slot draws the words of that slot; such a command has no output region. -/
theorem spoilDestinations_of_destSlot {f : Flight} {i : Instr} {d : SlotIx} (hi : decode f.cmd = .ok i)
    (hd : destSlot i = some d) (s : State) :
    spoilDestinations f s = s.writeSlotDrawn d (List.replicate s.params.n none) := by
  have hnone : unspecOutputs f (regions s.params i) = [] := by
    rw [unspecOutputs, List.filter_eq_nil_iff.2 fun g hg => by simp [out_eq_false_of_destSlot hd _ g hg], List.map_nil]
  simp only [spoilDestinations, hi, hd, unspecRegions_eq, hnone, State.writeAll]

/-- The abort of a command without a destination slot draws the bytes of its output regions. -/
theorem spoilDestinations_of_noDestSlot {f : Flight} {i : Instr} (hi : decode f.cmd = .ok i) (hd : destSlot i = none)
    (s : State) : spoilDestinations f s = s.writeAll (unspecOutputs f (regions s.params i)) := by
  simp only [spoilDestinations, hi, hd, unspecRegions_eq]

theorem spoilDestinations_writesFree {f : Flight} {i : Instr} {d : SlotIx} (hi : decode f.cmd = .ok i)
    (hd : destSlot i = some d) (h8 : d.toNat < 8) (s : State) : WritesFree s (spoilDestinations f s) d := by
  intro k hk
  rw [spoilDestinations_of_destSlot hi hd, State.coeffAt_writeSlotDrawn s h8, List.length_replicate, if_pos ⟨rfl, hk⟩,
    List.getElem?_replicate_of_lt hk]
  rfl

/-- An abort leaves every coefficient outside the destination slot. -/
theorem coeffAt_spoilDestinations_of_outside {f : Flight} {i : Instr} (hi : decode f.cmd = .ok i) (hwf : i.wf = true) {s : State}
    {d : SlotIx} {k : Nat} (h : destSlot i ≠ some d ∨ s.params.n ≤ k) :
    (spoilDestinations f s).coeffAt d k = s.coeffAt d k := by
  cases hd : destSlot i with
  | none =>
    rw [spoilDestinations_of_noDestSlot hi hd, State.writeAll_frame]
    rfl
  | some e =>
    have h8 := lt_of_fieldOk (wf_iff_fieldsOk.1 hwf).1 hd
    rw [spoilDestinations_of_destSlot hi hd, State.coeffAt_writeSlotDrawn s h8, List.length_replicate, if_neg]
    rintro ⟨rfl, hk⟩
    exact h.elim (absurd hd) (Nat.not_le.2 hk)

/-- After the writes every byte of their places holds some value, as does every byte that held one before. -/
theorem State.byteAt_writeAll_isSome {s : State} {outs : Outputs} {a : Nat}
    (h : (s.byteAt a).isSome ∨ ¬ Outside a outs.places) : ((s.writeAll outs).byteAt a).isSome := by
  induction outs generalizing s with
  | nil => exact h.resolve_right fun hn => hn fun o ho => absurd ho List.not_mem_nil
  | cons o outs ih =>
    refine ih ?_
    by_cases hin : o.1.toNat ≤ a ∧ a < o.1.toNat + o.2.length
    · obtain ⟨j, rfl⟩ := Nat.exists_eq_add_of_le hin.1
      rw [State.byteAt_writeBufDrawn_of_lt s _ (by omega)]
      exact .inl rfl
    · rw [State.byteAt_writeBufDrawn_of_outside s hin]
      refine h.imp_right fun hn hall => hn (List.forall_mem_cons.2 ⟨?_, hall⟩)
      dsimp only
      omega

theorem byteAt_spoilDestinations_isSome {f : Flight} {i : Instr} (hi : decode f.cmd = .ok i) {s : State} {g : Region}
    (hg : g ∈ regions s.params i) (hout : g.out = true) {j : Nat} (hj : j < g.len) :
    ((spoilDestinations f s).byteAt ((f.boff g.reg).toNat + j)).isSome := by
  cases hd : destSlot i with
  | some d => exact absurd hout (by simp [out_eq_false_of_destSlot hd _ g hg])
  | none =>
    rw [spoilDestinations_of_noDestSlot hi hd]
    refine State.byteAt_writeAll_isSome (.inr fun hall => ?_)
    rw [unspecOutputs_places] at hall
    have := hall _ (mem_outputPlaces hg hout)
    dsimp only at this
    omega

/-- An abort leaves every byte outside the output regions. -/
theorem byteAt_spoilDestinations_of_outside {f : Flight} {i : Instr} (hi : decode f.cmd = .ok i) {s : State} {a : Nat}
    (h : Outside a (outputPlaces s.params f i)) : (spoilDestinations f s).byteAt a = s.byteAt a := by
  cases hd : destSlot i with
  | some d => rw [spoilDestinations_of_destSlot hi hd, State.byteAt_congr (State.writeSlotDrawn_buf _ _ _)]
  | none =>
    rw [spoilDestinations_of_noDestSlot hi hd, State.byteAt_writeAll_of_outside]
    rwa [unspecOutputs_places]

/-! ### What a reset leaves in slots and BUF -/

theorem abortFlight_of_idle {s : State} (h : s.flight = none) : abortFlight s = s := by
  rw [abortFlight, h]

theorem abortFlight_of_flight {s : State} {f : Flight} (h : s.flight = some f) :
    abortFlight s = { spoilDestinations f s with flight := none } := by
  rw [abortFlight, h]

/-- The registers hold no location, so a reset leaves the memories as its abort does. -/
theorem sameStorage_reset (s : State) : SameStorage (abortFlight s) (resetKeepingMemory s) := ⟨fun _ _ => rfl, fun _ => rfl⟩

/-- With no command in flight a reset keeps the memories (R300, R302). -/
theorem sameStorage_reset_of_idle {s : State} (h : s.flight = none) : SameStorage s (resetKeepingMemory s) := by
  have hsame := sameStorage_reset s
  rwa [abortFlight_of_idle h] at hsame

/-- With a command in flight a reset leaves the memories with its destinations spoiled (R303). -/
theorem sameStorage_reset_of_flight {s : State} {f : Flight} (h : s.flight = some f) :
    SameStorage (spoilDestinations f s) (resetKeepingMemory s) := by
  have hsame := sameStorage_reset s
  rwa [abortFlight_of_flight h] at hsame

/-! ### A reset does not read the schedule -/

theorem State.writeSlotDrawn_withInputs (s : State) (inputs : List Event) (d : SlotIx) (ws : List (Option Word)) :
    ({ s with inputs := inputs } : State).writeSlotDrawn d ws = { s.writeSlotDrawn d ws with inputs := inputs } := by
  have hslot : ({ s with inputs := inputs } : State).slot d = s.slot d := rfl
  unfold State.writeSlotDrawn State.writeSlot
  rw [hslot]
  cases s.slot d <;> rfl

theorem State.writeAll_withInputs (s : State) (inputs : List Event) (outs : Outputs) :
    ({ s with inputs := inputs } : State).writeAll outs = { s.writeAll outs with inputs := inputs } := by
  induction outs generalizing s with
  | nil => rfl
  | cons o outs ih => exact ih (s.writeBufDrawn o.1.toNat o.2)

theorem spoilDestinations_withInputs (f : Flight) (s : State) (inputs : List Event) :
    spoilDestinations f { s with inputs := inputs } = { spoilDestinations f s with inputs := inputs } := by
  cases hi : decode f.cmd with
  | error e => simp only [spoilDestinations, hi]
  | ok i =>
    cases hd : destSlot i with
    | some d =>
      rw [spoilDestinations_of_destSlot hi hd, spoilDestinations_of_destSlot hi hd]
      exact State.writeSlotDrawn_withInputs s inputs d _
    | none =>
      rw [spoilDestinations_of_noDestSlot hi hd, spoilDestinations_of_noDestSlot hi hd]
      exact State.writeAll_withInputs s inputs _

theorem abortFlight_withInputs (s : State) (inputs : List Event) :
    abortFlight { s with inputs := inputs } = { abortFlight s with inputs := inputs } := by
  obtain hf | ⟨f, hf⟩ := Option.eq_none_or_eq_some s.flight
  · rw [abortFlight_of_idle hf, abortFlight_of_idle (s := { s with inputs := inputs }) hf]
  · rw [abortFlight_of_flight hf, abortFlight_of_flight (s := { s with inputs := inputs }) hf, spoilDestinations_withInputs]

theorem resetKeepingMemory_withInputs (s : State) (inputs : List Event) :
    resetKeepingMemory { s with inputs := inputs } = { resetKeepingMemory s with inputs := inputs } :=
  congrArg resetRegisters (abortFlight_withInputs s inputs)

/-! ### The two inputs that ask for a reset -/

/-- A write to CTRL with SRST set is the reset that keeps the memories (R302). -/
theorem hostWrite_softReset {w : Bus} (hsrst : w.getLsbD 1 = true) (s : State) :
    hostWrite s 0x028 w = .next (resetKeepingMemory s) :=
  (hostWrite_register 0x28 rfl).trans (congrArg Host.Outcome.next (if_pos hsrst))

/-- The platform's hardware reset is that reset too, and leaves the schedule (R300). -/
theorem step_hardwareReset (s : State) (rest : List Event) :
    step { s with inputs := .hardwareReset :: rest } = .next { resetKeepingMemory s with inputs := rest } :=
  congrArg Host.Outcome.next (resetKeepingMemory_withInputs s rest)

theorem resetKeepingMemory_flight (s : State) : (resetKeepingMemory s).flight = none := by
  rw [resetKeepingMemory_frame]

theorem resetKeepingMemory_params (s : State) : (resetKeepingMemory s).params = s.params := by
  rw [resetKeepingMemory_frame]

end Sys2Proof.Machine

namespace Sys2Proof.Proofs

open Sys2Proof Sys2Proof.Machine Sys2Proof.Claims

/-- Settles O51: both resets leave the state of `resetKeepingMemory`, the schedule apart. -/
theorem resetKeepsMemory : Obligations.ResetKeepsMemory := fun s _ rest hsrst =>
  ⟨_, hostWrite_softReset hsrst s, step_hardwareReset s rest, resetKeepingMemory_flight s, rfl, rfl, rfl, rfl, rfl, rfl, rfl,
    rfl, rfl, resetKeepingMemory_params s, sameStorage_reset_of_idle⟩

/-- Settles O52: the abort draws the destination slot or the output regions, and the registers of the reset hold no location. -/
theorem abortSpoilsDestinations : Obligations.AbortSpoilsDestinations := by
  intro s f i w ⟨_, _, hflight⟩ hf hi hsrst
  obtain ⟨i', hi', hwf, -⟩ := Flight.valid_iff.1 (hflight f hf).1
  cases hi.symm.trans hi'
  obtain ⟨hcoeff, hbyte⟩ := sameStorage_reset_of_flight hf
  refine ⟨_, hostWrite_softReset hsrst s, rfl, fun d hd k hk => ?_, fun g hg hout j hj => ?_, fun d k hout => ?_,
    fun a hout => ?_⟩
  · exact (hcoeff d k).trans (spoilDestinations_writesFree hi hd (lt_of_fieldOk (wf_iff_fieldsOk.1 hwf).1 hd) s k hk)
  · rw [hbyte]
    exact byteAt_spoilDestinations_isSome hi hg hout hj
  · exact (hcoeff d k).trans (coeffAt_spoilDestinations_of_outside hi hwf hout)
  · exact (hbyte a).trans (byteAt_spoilDestinations_of_outside hi (outside_outputPlaces hout))

/-- Settles O56: the engine's turn and every event keep the build. -/
theorem parametersNeverChange : Obligations.ParametersNeverChange := fun _ _ => step_next_params

end Sys2Proof.Proofs
end
